-- ==== Sys2Proof/Word.lean ====
section
/-! DEFINITION. The word types of DSC-CORE: the 32-bit state word, the byte, the 64-bit operand, the 16-word BlockState value and
the 8-word chaining value (rules R5, R21, R29, R34). -/

namespace Sys2Proof

/-- A state word, 32 bits (R5 `WORD`). -/
abbrev Word := BitVec 32

/-- One byte of `MEM` (R60). -/
abbrev Byte := BitVec 8

/-- A 64-bit operand: `CTR` or `AUX` (R5 `CTRW`). -/
abbrev DWord := BitVec 64

/-- A byte address of `MEM` as the host or a descriptor names it, 32 bits (R5 `AW`). -/
abbrev Address := BitVec 32

/-- A BlockState value, or the working register of a block transform: sixteen words (R21, R35). -/
abbrev Block := Vector Word 16

/-- A chaining value: eight words (R34). -/
abbrev Chain := Vector Word 8

end Sys2Proof
end

