-- ==== Sys2Proof/Syntax.lean ====
section
/-! DEFINITION. The twelve commands of DSC-CORE, one constructor per row of spec/opcode_table.json (R2, R94, R95). -/

namespace Sys2Proof

/-- The number of a BlockState register, `b0` to `b3` (R21, R94). -/
abbrev BsReg := Fin 4

/-- The number of a buffer descriptor, `buf0` to `buf3` (R32, R94). -/
abbrev BufReg := Fin 4

/-- A command with its operands, as R94 assembles them: unsigned fields, used as they are. -/
inductive Instr where
  /-- `BSLDW bd` (R120). -/
  | bsldw (bd : BsReg)
  /-- `BSLDB bd, bufk` (R121). -/
  | bsldb (bd : BsReg) (k : BufReg)
  /-- `BSRDW bs, idx` (R122). -/
  | bsrdw (bs : BsReg) (idx : BitVec 8)
  /-- `BSSTB bs, bufk` (R123). -/
  | bsstb (bs : BsReg) (k : BufReg)
  /-- `VCOPY bufa, bufb` (R144). -/
  | vcopy (ka kb : BufReg)
  /-- `VEQ bufa, bufb` (R146). -/
  | veq (ka kb : BufReg)
  /-- `VXOR bufa, bufb` (R148). -/
  | vxor (ka kb : BufReg)
  /-- `CHACHA bd, bs, ndr[, ff]` (R175). -/
  | chacha (bd bs : BsReg) (ndr : BitVec 8) (ff : Bool)
  /-- `CTRINC` (R178). -/
  | ctrinc
  /-- `HLDW` (R191). -/
  | hldw
  /-- `HRDW idx` (R192). -/
  | hrdw (idx : BitVec 8)
  /-- `B2SCOMP bm, nr` (R197). -/
  | b2scomp (bm : BsReg) (nr : BitVec 8)
  deriving DecidableEq, Repr

end Sys2Proof
end

