-- ==== Sys2Proof/Decode.lean ====
section
/-! DEFINITION. The command word: its fields (R93), the opcode map (R95), decode (R104) with a name for every rejection (R97),
and the encoder. -/

namespace Sys2Proof

/-- `OP`, bits 31:24 (R93). -/
def fieldOp (w : Word) : BitVec 8 := w.extractLsb' 24 8

/-- `R1`, bits 23:22 (R93). -/
def fieldR1 (w : Word) : Fin 4 := (w.extractLsb' 22 2).toFin

/-- `R2`, bits 21:20 (R93). -/
def fieldR2 (w : Word) : Fin 4 := (w.extractLsb' 20 2).toFin

/-- `IMM8`, bits 19:12 (R93). -/
def fieldImm8 (w : Word) : BitVec 8 := w.extractLsb' 12 8

/-- `FF`, bit 11 (R93). -/
def fieldFf (w : Word) : Bool := w.getLsbD 11

/-- `ZERO`, bits 10:0 (R93). -/
def fieldZero (w : Word) : BitVec 11 := w.extractLsb' 0 11

/-- One row of the opcode map: a word `w` is the row's command when `w &&& mask = pattern` (R95; the spec calls the pattern
"match"), and `build` assembles its operands (R94). -/
structure OpRow where
  mnemonic : String
  pattern : Word
  mask : Word
  build : Word → Instr

/-- The opcode map, one row per command, in the order of R95. -/
def opcodeMap : List OpRow :=
  [ ⟨"BSLDW", 0x01000000#32, 0xFF3FFFFF#32, fun w => .bsldw (fieldR1 w)⟩,
    ⟨"BSLDB", 0x02000000#32, 0xFF0FFFFF#32, fun w => .bsldb (fieldR1 w) (fieldR2 w)⟩,
    ⟨"BSRDW", 0x03000000#32, 0xFF300FFF#32, fun w => .bsrdw (fieldR1 w) (fieldImm8 w)⟩,
    ⟨"BSSTB", 0x04000000#32, 0xFF0FFFFF#32, fun w => .bsstb (fieldR1 w) (fieldR2 w)⟩,
    ⟨"VCOPY", 0x10000000#32, 0xFF0FFFFF#32, fun w => .vcopy (fieldR1 w) (fieldR2 w)⟩,
    ⟨"VEQ", 0x11000000#32, 0xFF0FFFFF#32, fun w => .veq (fieldR1 w) (fieldR2 w)⟩,
    ⟨"VXOR", 0x12000000#32, 0xFF0FFFFF#32, fun w => .vxor (fieldR1 w) (fieldR2 w)⟩,
    ⟨"CHACHA", 0x20000000#32, 0xFF0007FF#32, fun w => .chacha (fieldR1 w) (fieldR2 w) (fieldImm8 w) (fieldFf w)⟩,
    ⟨"CTRINC", 0x21000000#32, 0xFFFFFFFF#32, fun _ => .ctrinc⟩,
    ⟨"HLDW", 0x30000000#32, 0xFFFFFFFF#32, fun _ => .hldw⟩,
    ⟨"HRDW", 0x31000000#32, 0xFFF00FFF#32, fun w => .hrdw (fieldImm8 w)⟩,
    ⟨"B2SCOMP", 0x32000000#32, 0xFFC00FFF#32, fun w => .b2scomp (fieldR2 w) (fieldImm8 w)⟩ ]

/-- `w` is the command of row `r` (R95). -/
def OpRow.accepts (r : OpRow) (w : Word) : Bool := w &&& r.mask == r.pattern

/-- Why a word is no command: the three cases of R97. The hardware does not record which (R238), log 16. -/
inductive Illegal where
  /-- (a) `OP` is none of the twelve opcodes. -/
  | unknownOpcode
  /-- (b) a listed `OP` with a `ZERO` bit set. -/
  | zeroFieldSet
  /-- (c) a listed `OP` with a non-zero value in a field the command does not use. -/
  | unusedFieldSet
  deriving DecidableEq, Repr

/-- The case of R97 a word that matches no row falls under. -/
def illegalReason (w : Word) : Illegal :=
  if opcodeMap.all (fun r => fieldOp r.pattern != fieldOp w) then .unknownOpcode
  else if fieldZero w != 0#11 then .zeroFieldSet
  else .unusedFieldSet

/-- Decode (R104): the row that accepts the word, with its fields extracted; a word no row accepts is illegal, by name. Total on
all 2^32 words, reads no state. -/
def decode (w : Word) : Except Illegal Instr :=
  match opcodeMap.find? (·.accepts w) with
  | some r => .ok (r.build w)
  | none => .error (illegalReason w)

/-- R93: `w = OP*2^24 + R1*2^22 + R2*2^20 + IMM8*2^12 + FF*2^11 + ZERO`, with `ZERO = 0`. -/
def assembleWord (op : Nat) (r1 r2 : Fin 4) (imm8 : BitVec 8) (ff : Bool) : Word :=
  BitVec.ofNat 32 (op * 2 ^ 24 + r1.val * 2 ^ 22 + r2.val * 2 ^ 20 + imm8.toNat * 2 ^ 12 + ff.toNat * 2 ^ 11)

/-- The word of a command (R94, R95): unused fields are 0. -/
def encode : Instr → Word
  | .bsldw bd => assembleWord 0x01 bd 0 0#8 false
  | .bsldb bd k => assembleWord 0x02 bd k 0#8 false
  | .bsrdw bs idx => assembleWord 0x03 bs 0 idx false
  | .bsstb bs k => assembleWord 0x04 bs k 0#8 false
  | .vcopy ka kb => assembleWord 0x10 ka kb 0#8 false
  | .veq ka kb => assembleWord 0x11 ka kb 0#8 false
  | .vxor ka kb => assembleWord 0x12 ka kb 0#8 false
  | .chacha bd bs ndr ff => assembleWord 0x20 bd bs ndr ff
  | .ctrinc => assembleWord 0x21 0 0 0#8 false
  | .hldw => assembleWord 0x30 0 0 0#8 false
  | .hrdw idx => assembleWord 0x31 0 0 idx false
  | .b2scomp bm nr => assembleWord 0x32 0 bm nr false

/-- The command my decoder reads from a table word of `nbits` bits: a command word is one 32-bit value, with no byte order of its
own (R63, R93), log 20. -/
def decodeTableWord (nbits w : Nat) : Option Instr :=
  (decode (BitVec.ofNat 32 (w % 2 ^ nbits))).toOption

end Sys2Proof
end

