-- ==== Sys2Proof/Config.lean ====
section
/-! DEFINITION. The parameters of DSC-CORE (R5) and the values the spec leaves free: each free value is an opaque constant, so
that no proof can see what it is. -/

namespace Sys2Proof.Config

/-- `NBS`: the number of BlockState registers (R5, D9). -/
def nbs : Nat := 4

/-- `NBUF`: the number of buffer descriptors (R5, D12). -/
def nbuf : Nat := 4

/-- The number of byte addresses of `MEM` (R60: 2^32). -/
def memSize : Nat := 4294967296

/-- The number of bytes of the register window (R24). -/
def windowSize : Nat := 256

/-- `ID`, the constant every read of offset 0 returns (R25). -/
def idValue : Word := 0x44534331#32

/-- What a byte of `MEM` that nothing has listed reads as. DESIGN CHOICE, unsafe, log 3: the spec leaves `MEM` at power-on
unspecified (R36, U11). Every contents of `MEM` can be listed, so a statement over all states does not lean on this byte. -/
def unlistedByte : Byte := 0#8

/-- The upper 24 bits of `REG_BASE` (R5: OPEN, a multiple of 256). No rule depends on it; it has no body, log 11. -/
opaque regPage : BitVec 24

/-- The bus address of the register at window offset `off` (R101: "bus write at `REG_BASE + offset(REG)`"). -/
def busAddress (off : BitVec 8) : BitVec 32 := regPage ++ off

/-- The byte a command abandoned by a reset leaves at the `n`-th destination byte the model had to choose (R261, U12: "any
value"). It has no body, log 8. -/
opaque abandonedByte : Nat → Byte

end Sys2Proof.Config
end

