-- ==== Sys2Proof/Machine/Transaction.lean ====
section
/-! DEFINITION. What the host can do between two commands: the moves a host program is a list of (R22, R74, R90, R260, R261). -/

namespace Sys2Proof.Machine

/-- The width of a host transaction on the register window. Only `word` belongs to the interface (R90). -/
inductive Width where
  | byte
  | halfword
  | word
  | doubleword
  | burst
  deriving DecidableEq, Repr

/-- One move of the host program (log 1). -/
inductive HostMove where
  /-- `rd off`: read the window at offset `off` (R90, R91). -/
  | rd (width : Width) (off : Nat)
  /-- `wr off, value`: write the window at offset `off`; at `CMD` this performs a command (R90, R91, R92). -/
  | wr (width : Width) (off : Nat) (value : Word)
  /-- The host's own load of one byte of `MEM` (R74). -/
  | load (a : Address)
  /-- The host's own store of one byte of `MEM` (R74). -/
  | store (a : Address) (v : Byte)
  /-- The platform resets the CORE between two commands (R260). -/
  | reset
  /-- The host writes `w` to `CMD` and reset arrives while that command runs (R261). -/
  | resetDuring (w : Word)
  deriving DecidableEq, Repr

end Sys2Proof.Machine
end

