-- ==== Sys2Proof/Machine/State.lean ====
section
/-! DEFINITION. The state of DSC-CORE (R20) with the host program that drives it (R22), the reasons a step can stop, and the state
after reset (R36). -/

namespace Sys2Proof.Machine

/-- The five errors a command can end in (R231). They are recorded in `STATUS`; none of them stops the machine. -/
inductive CmdError where
  /-- Code 1. -/
  | invalidLength
  /-- Code 2. -/
  | indexOutOfRange
  /-- Code 3. -/
  | argumentNull
  /-- Code 4. -/
  | overflow
  /-- Code 5: the word written to `CMD` is not a command. -/
  | illegalCommand
  deriving DecidableEq, Repr

/-- A buffer descriptor `BUF[k]` (R32). -/
structure Descriptor where
  /-- `BUFk_BASE`, a byte address of `MEM`. -/
  base : Word
  /-- `BUFk_LEN`, a length in bytes. -/
  len : Word
  /-- `BUFV[k]`: present (true) or null. -/
  v : Bool
  deriving DecidableEq, Repr

/-- `MEM`: (address, byte) pairs, addresses strictly rising, no entry equal to what an unlisted address reads as. -/
abbrev Memory := List Host.Cell

/-- Why the machine stops. -/
inductive Fault where
  /-- Raised by `step` when `pc` is past the last move: the host program has ended (R22: "the run ends when `pc` equals the length
  of the list"). Safe: nothing is claimed of what a CORE does with no host. -/
  | runEnded
  deriving DecidableEq, Repr

/-- Why the model gives a move no meaning. -/
inductive Refusal where
  /-- An instruction without a meaning yet; raised by `exec` only. Safe: nothing is claimed of it. -/
  | notModelled (mnemonic : String)
  /-- Raised by a window transaction that is not 32 bits wide (R90, U13: refuse). Safe. -/
  | transactionWidth
  /-- Raised by a window transaction at an offset that is no multiple of 4 (R90, U13: refuse). Safe. -/
  | transactionUnaligned
  /-- Raised by a window transaction at an offset past 0xFC (R90, U13: refuse). Safe. -/
  | transactionOutsideWindow
  deriving DecidableEq, Repr

/-- The whole machine: the architectural state of R20, then the host program of R22 and the model's own two fields. -/
structure State where
  /-- `B[0..3]` (R21). -/
  b : Vector Block 4
  /-- `BV[0..3]` (R21). -/
  bv : Vector Bool 4
  /-- `H[0..7]` (R34). -/
  h : Chain
  /-- `HV` (R34). -/
  hv : Bool
  /-- `WIN[0..15]` (R33). -/
  win : Vector Word 16
  /-- `CTR` = {`CTR_HI`, `CTR_LO`} (R29). -/
  ctr : DWord
  /-- `AUX` = {`AUX_HI`, `AUX_LO`} (R30). -/
  aux : DWord
  /-- `CNT` (R31). -/
  cnt : Word
  /-- `OFFA` (R31). -/
  offa : Word
  /-- `OFFB` (R31). -/
  offb : Word
  /-- `BUF[0..3]` (R32). -/
  buf : Vector Descriptor 4
  /-- `DATA` (R28). -/
  data : Word
  /-- `STATUS.ERR` (R27): none is code 0, `OK`. -/
  err : Option CmdError
  /-- `STATUS.EQ`, the one flag (R23). -/
  eq : Bool
  /-- `STATUS.STICKY` (R27): bit `c - 1` here is `STATUS` bit `7 + c`. -/
  sticky : BitVec 5
  /-- `MEM` (R60). -/
  mem : Memory
  /-- The host program (R22), log 1. -/
  program : List HostMove
  /-- The index of the next move (R22). -/
  pc : Nat
  /-- The model's own: the values the host's reads returned, oldest first (R101), log 6. -/
  results : List Word
  /-- The model's own: how many free bytes abandoned commands have used (R261), log 8. -/
  freeCount : Nat
  deriving DecidableEq, Repr

/-- A null descriptor with zero fields (R36). -/
def Descriptor.zero : Descriptor := { base := 0#32, len := 0#32, v := false }

/-- The machine right after reset (R36, R260): every register 0, every valid bit clear, `MEM` with nothing listed, and no host
program loaded (log 2). `B` and `H` are unspecified and unreadable there; zeros are the model's choice (U10, log 4). -/
def State.reset : State where
  b := Vector.replicate 4 (Vector.replicate 16 0#32)
  bv := Vector.replicate 4 false
  h := Vector.replicate 8 0#32
  hv := false
  win := Vector.replicate 16 0#32
  ctr := 0#64
  aux := 0#64
  cnt := 0#32
  offa := 0#32
  offb := 0#32
  buf := Vector.replicate 4 Descriptor.zero
  data := 0#32
  err := none
  eq := false
  sticky := 0#5
  mem := []
  program := []
  pc := 0
  results := []
  freeCount := 0

end Sys2Proof.Machine
end

