-- ==== Sys2Proof/Machine/Ops.lean ====
section
/-! DEFINITION. The named operations over words, memory and registers: arithmetic (R7), byte order (R8), `MEM` (R61, R62),
register writes (R9), a command's checks and its two endings (R92, R235, R236), and reset (R260, R261). -/

namespace Sys2Proof.Machine

/-! ## Words (R7, R8) -/

/-- `add32`: addition modulo 2^32, no carry, no flag (R7). -/
def add32 (a b : Word) : Word := a + b

/-- `rotl32(x, n)` for `0 < n < 32` (R7). -/
def rotl32 (x : Word) (n : Nat) : Word := (x <<< n) ||| (x >>> (32 - n))

/-- `rotr32(x, n)` for `0 < n < 32` (R7). -/
def rotr32 (x : Word) (n : Nat) : Word := (x >>> n) ||| (x <<< (32 - n))

/-- `lo32(q) = q[31:0]` (R7). -/
def lo32 (q : DWord) : Word := q.extractLsb' 0 32

/-- `hi32(q) = q[63:32]` (R7). -/
def hi32 (q : DWord) : Word := q.extractLsb' 32 32

/-- `{hi, lo}` (R6). -/
def pair64 (hi lo : Word) : DWord := hi ++ lo

/-- `le32(b0, b1, b2, b3)`: a word from four bytes, `b0` from the lowest address (R8). -/
def le32 (b0 b1 b2 b3 : Byte) : Word := b3 ++ b2 ++ b1 ++ b0

/-- `byte(w, j) = w[8j+7:8j]` (R8). -/
def byteOf (w : Word) (j : Nat) : Byte := w.extractLsb' (8 * j) 8

/-! ## `MEM` (R60 to R62) -/

/-- The canonical form from address `lo` up: addresses strictly rising and below 2^32, no entry equal to an unlisted byte. -/
def Memory.wfFrom (lo : Nat) : Memory → Bool
  | [] => true
  | (k, v) :: rest =>
      decide (lo ≤ k) && decide (k < Config.memSize) && decide (v ≠ Config.unlistedByte) && Memory.wfFrom (k + 1) rest

/-- `MEM` is in canonical form. -/
def Memory.wf (m : Memory) : Bool := Memory.wfFrom 0 m

/-- The byte at address `a`; at 2^32 and beyond there is none and no command reads it, log 19. -/
def Memory.readByte : Memory → Nat → Byte
  | [], _ => Config.unlistedByte
  | (k, v) :: rest, a => if a = k then v else if a < k then Config.unlistedByte else Memory.readByte rest a

/-- `MEM` with byte `v` at address `a`, every other byte as it was; the canonical form is kept. -/
def Memory.writeByte : Memory → Nat → Byte → Memory
  | [], a, v => if v = Config.unlistedByte then [] else [(a, v)]
  | (k, u) :: rest, a, v =>
      if a < k then (if v = Config.unlistedByte then (k, u) :: rest else (a, v) :: (k, u) :: rest)
      else if a = k then (if v = Config.unlistedByte then rest else (a, v) :: rest)
      else (k, u) :: Memory.writeByte rest a v

/-- `MemRead(addr, n)`: the `n` bytes from `addr`, lowest address first (R61). -/
def Memory.readBytes (m : Memory) (a : Nat) : Nat → List Byte
  | 0 => []
  | n + 1 => m.readByte a :: Memory.readBytes m (a + 1) n

/-- `MemWrite(addr, n, bytes)`: `MEM[addr+i] <- bytes[i]`, no other byte changed (R62). -/
def Memory.writeBytes (m : Memory) (a : Nat) : List Byte → Memory
  | [] => m
  | v :: vs => Memory.writeBytes (m.writeByte a v) (a + 1) vs

/-- The little-endian word at address `a` (R63). -/
def Memory.readWord (m : Memory) (a : Nat) : Word :=
  le32 (m.readByte a) (m.readByte (a + 1)) (m.readByte (a + 2)) (m.readByte (a + 3))

/-! ## Register writes (R9, R38) -/

/-- `B[r] <- w[0..15] ; BV[r] <- 1`: a BlockState register is only ever replaced whole (R38). -/
def State.writeBlock (s : State) (r : BsReg) (w : Block) : State :=
  { s with b := s.b.set r w, bv := s.bv.set r true }

/-- `H <- w[0..7] ; HV <- 1` (R34). -/
def State.writeChain (s : State) (w : Chain) : State := { s with h := w, hv := true }

/-- `DATA <- w` (R28). -/
def State.writeData (s : State) (w : Word) : State := { s with data := w }

/-- `MEM` replaced. -/
def State.writeMem (s : State) (m : Memory) : State := { s with mem := m }

/-- `EQ <- e` (R23). -/
def State.writeEq (s : State) (e : Bool) : State := { s with eq := e }

/-! ## Errors and endings (R231, R235, R236) -/

/-- The code of an error (R231). -/
def CmdError.code : CmdError → BitVec 4
  | .invalidLength => 1#4
  | .indexOutOfRange => 2#4
  | .argumentNull => 3#4
  | .overflow => 4#4
  | .illegalCommand => 5#4

/-- The sticky bit of an error: `STATUS` bit `7 + code`, bit `code - 1` of `STICKY` (R27, R236). -/
def CmdError.stickyMask : CmdError → BitVec 5
  | .invalidLength => 0b00001#5
  | .indexOutOfRange => 0b00010#5
  | .argumentNull => 0b00100#5
  | .overflow => 0b01000#5
  | .illegalCommand => 0b10000#5

/-- `raise e`: `STATUS.ERR` and the sticky bit, and nothing else (R236). This is all that "taking an exception" is here; there
is no return from it (R237). -/
def State.raise (s : State) (e : CmdError) : State :=
  { s with err := some e, sticky := s.sticky ||| e.stickyMask }

/-- `done`: `STATUS.ERR <- 0` (R235). -/
def State.complete (s : State) : State := { s with err := none }

/-- The error of the first check that holds, in the order listed (R232, R233). -/
def firstFailure : List (Bool × CmdError) → Option CmdError
  | [] => none
  | (failed, e) :: rest => if failed then some e else firstFailure rest

/-- A decoded command (R92): validate by `checks`; the first failing check raises its error with nothing else changed, else the
command's effect `effect` happens and the command completes. -/
def runChecked (checks : List (Bool × CmdError)) (s effect : State) : Host.Outcome State Fault Refusal :=
  match firstFailure checks with
  | some e => .next (s.raise e)
  | none => .next effect.complete

/-- A word that is no command (R238): `IllegalCommand`, whatever case of R97 it is. -/
def illegalCommand (_reason : Illegal) (s : State) : Host.Outcome State Fault Refusal :=
  .next (s.raise .illegalCommand)

/-! ## Reset (R36, R260) -/

/-- Reset of the CORE: every register takes the value of R36; `MEM`, the host program and the model's own fields are not the
CORE's registers and stay (R36, R260, log 7). -/
def State.resetRegisters (s : State) : State :=
  { State.reset with
    mem := s.mem, program := s.program, pc := s.pc, results := s.results, freeCount := s.freeCount }

/-- `n` free bytes, numbered from `start` (U12, log 8). -/
def freeBytes (start : Nat) : Nat → List Byte
  | 0 => []
  | n + 1 => Config.abandonedByte start :: freeBytes (start + 1) n

/-- The bytes of `MEM` at `a .. a+n-1` take free values (R261: "unspecified"). -/
def State.scramble (s : State) (a n : Nat) : State :=
  { s with mem := s.mem.writeBytes a (freeBytes s.freeCount n), freeCount := s.freeCount + n }

end Sys2Proof.Machine
end

