-- ==== Sys2Proof/Machine/Operands.lean ====
section
/-! DEFINITION. The operand forms: descriptors and ranges (R32, R69, R70, R140), the byte image of a BlockState (R124), and the
checks of every command in the order R232 lists them. -/

namespace Sys2Proof.Machine

/-! ## Descriptors and ranges -/

/-- `BASE + LEN > 2^32`, the sum taken without wrap: the descriptor is not well formed (R32). -/
def Descriptor.illFormed (d : Descriptor) : Bool := decide (d.base.toNat + d.len.toNat > Config.memSize)

/-- `off + n > LEN`, the sum taken without wrap (R69, R7). -/
def Descriptor.outOfRange (d : Descriptor) (off n : Nat) : Bool := decide (off + n > d.len.toNat)

/-- The start address of the range at offset `off` (R69). -/
def Descriptor.start (d : Descriptor) (off : Word) : Nat := d.base.toNat + off.toNat

/-- The range of `n` bytes at offset `off` is admitted (R69). -/
def Descriptor.admits (d : Descriptor) (off n : Nat) : Bool := d.v && !d.illFormed && !d.outOfRange off n

/-- `n = CNT` (R140). -/
def State.count (s : State) : Nat := s.cnt.toNat

/-- `sa = BUF[ka].BASE + OFFA` (R140). -/
def State.startA (s : State) (ka : BufReg) : Nat := (s.buf[ka]).start s.offa

/-- `sb = BUF[kb].BASE + OFFB` (R140). -/
def State.startB (s : State) (kb : BufReg) : Nat := (s.buf[kb]).start s.offb

/-- The two ranges start at the same address: they coincide (R70). -/
def coincide (sa sb : Nat) : Bool := sa == sb

/-- Range a precedes range b (R70). -/
def precedes (sa sb : Nat) : Bool := decide (sa < sb)

/-- Two ranges of `n` bytes overlap (R70). -/
def overlap (n sa sb : Nat) : Bool := decide (0 < n) && decide (sa < sb + n) && decide (sb < sa + n)

/-- Two ranges of `n` bytes that neither coincide nor overlap are disjoint (R70). -/
def disjoint (n sa sb : Nat) : Bool := !coincide sa sb && !overlap n sa sb

/-! ## The byte image of a BlockState (R124) -/

/-- The four bytes of a word, least significant first. -/
def wordImage (w : Word) : List Byte := [byteOf w 0, byteOf w 1, byteOf w 2, byteOf w 3]

/-- The 64 bytes of a BlockState: `byte(w[i], j)` at position `4i + j` (R124). -/
def blockImage (w : Block) : List Byte := w.toList.flatMap wordImage

/-- Construct from bytes: word `i` is the little-endian word at `a + 4i` (R121, R63). -/
def Memory.readBlock (m : Memory) (a : Nat) : Block := Vector.ofFn fun i => m.readWord (a + 4 * i.val)

/-! ## Checks, by command, in order (R232) -/

/-- `BSLDB` (R121). -/
def bsldbChecks (k : BufReg) (s : State) : List (Bool × CmdError) :=
  [ (!(s.buf[k]).v, .argumentNull),
    ((s.buf[k]).illFormed, .indexOutOfRange),
    (decide ((s.buf[k]).len.toNat ≠ 64), .invalidLength) ]

/-- `BSRDW` (R122). -/
def bsrdwChecks (bs : BsReg) (idx : BitVec 8) (s : State) : List (Bool × CmdError) :=
  [ (!s.bv[bs], .argumentNull),
    (decide (idx.toNat ≥ 16), .indexOutOfRange) ]

/-- `BSSTB` (R123). -/
def bsstbChecks (bs : BsReg) (k : BufReg) (s : State) : List (Bool × CmdError) :=
  [ (!s.bv[bs] || !(s.buf[k]).v, .argumentNull),
    ((s.buf[k]).illFormed, .indexOutOfRange),
    ((s.buf[k]).outOfRange s.offa.toNat 64, .indexOutOfRange) ]

/-- `VCOPY`, `VEQ` and `VXOR` (R141). -/
def vectorChecks (ka kb : BufReg) (s : State) : List (Bool × CmdError) :=
  [ (!(s.buf[ka]).v || !(s.buf[kb]).v, .argumentNull),
    ((s.buf[ka]).illFormed || (s.buf[kb]).illFormed, .indexOutOfRange),
    ((s.buf[ka]).outOfRange s.offa.toNat s.count || (s.buf[kb]).outOfRange s.offb.toNat s.count, .indexOutOfRange) ]

/-- `CHACHA` (R175). -/
def chachaChecks (bs : BsReg) (s : State) : List (Bool × CmdError) :=
  [ (!s.bv[bs], .argumentNull) ]

/-- `CTRINC` (R178): `CTR = 2^64 - 1`. -/
def ctrincChecks (s : State) : List (Bool × CmdError) :=
  [ (decide (s.ctr = 0xFFFFFFFFFFFFFFFF#64), .overflow) ]

/-- `HRDW` (R192). -/
def hrdwChecks (idx : BitVec 8) (s : State) : List (Bool × CmdError) :=
  [ (!s.hv, .argumentNull),
    (decide (idx.toNat ≥ 8), .indexOutOfRange) ]

/-- `B2SCOMP` (R197). -/
def b2scompChecks (bm : BsReg) (s : State) : List (Bool × CmdError) :=
  [ (!s.hv || !s.bv[bm], .argumentNull) ]

/-- The checks of a command; `BSLDW` and `HLDW` have none (R232). -/
def commandChecks (i : Instr) (s : State) : List (Bool × CmdError) :=
  match i with
  | .bsldw _ => []
  | .bsldb _ k => bsldbChecks k s
  | .bsrdw bs idx => bsrdwChecks bs idx s
  | .bsstb bs k => bsstbChecks bs k s
  | .vcopy ka kb => vectorChecks ka kb s
  | .veq ka kb => vectorChecks ka kb s
  | .vxor ka kb => vectorChecks ka kb s
  | .chacha _ bs _ _ => chachaChecks bs s
  | .ctrinc => ctrincChecks s
  | .hldw => []
  | .hrdw idx => hrdwChecks idx s
  | .b2scomp bm _ => b2scompChecks bm s

/-- The bytes of `MEM` a command names as its destination, as start and length: none for a command that stores nothing
(R37, R123, R144, R148). -/
def destinationRange (i : Instr) (s : State) : Option (Nat × Nat) :=
  match i with
  | .bsldw _ => none
  | .bsldb _ _ => none
  | .bsrdw _ _ => none
  | .bsstb _ k => some ((s.buf[k]).start s.offa, 64)
  | .vcopy ka _ => some (s.startA ka, s.count)
  | .veq _ _ => none
  | .vxor ka _ => some (s.startA ka, s.count)
  | .chacha _ _ _ _ => none
  | .ctrinc => none
  | .hldw => none
  | .hrdw _ => none
  | .b2scomp _ _ => none

end Sys2Proof.Machine
end

