-- ==== Sys2Proof/Machine/Blake2s.lean ====
section
/-! DEFINITION. The Blake2s compression core: `HLDW`, `HRDW`, `B2SCOMP` (43_blake2s.md, R190 to R198). -/

namespace Sys2Proof.Machine

/-- `HLDW` (R191): the chaining value from `WIN[0..7]`. No check. -/
def execHldw (s : State) : Host.Outcome State Fault Refusal :=
  runChecked [] s (s.writeChain (Vector.ofFn fun i => s.win[i.val]))

/-- Word `idx` of a chaining value; an index past 7 has no word and is never read (R192), log 19. -/
def chainWord (h : Chain) (idx : BitVec 8) : Word := h.toList.getD idx.toNat 0#32

/-- `HRDW idx` (R192): `DATA <- H[idx]`. -/
def execHrdw (idx : BitVec 8) (s : State) : Host.Outcome State Fault Refusal :=
  runChecked (hrdwChecks idx s) s (s.writeData (chainWord s.h idx))

/-- The IV constants (R194). -/
def blakeIv : Chain :=
  #v[0x6A09E667#32, 0xBB67AE85#32, 0x3C6EF372#32, 0xA54FF53A#32, 0x510E527F#32, 0x9B05688C#32, 0x1F83D9AB#32, 0x5BE0CD19#32]

/-- The message-schedule table `SIGMA` (R195). -/
def sigma : Vector (Vector (Fin 16) 16) 10 :=
  #v[#v[0, 1, 2, 3, 4, 5, 6, 7, 8, 9, 10, 11, 12, 13, 14, 15],
     #v[14, 10, 4, 8, 9, 15, 13, 6, 1, 12, 0, 2, 11, 7, 5, 3],
     #v[11, 8, 12, 0, 5, 2, 15, 13, 10, 14, 3, 6, 7, 1, 9, 4],
     #v[7, 9, 3, 1, 13, 12, 11, 14, 2, 6, 5, 10, 4, 0, 15, 8],
     #v[9, 0, 5, 7, 2, 4, 10, 15, 14, 1, 11, 12, 6, 8, 3, 13],
     #v[2, 12, 6, 10, 0, 11, 8, 3, 4, 13, 7, 5, 15, 14, 1, 9],
     #v[12, 5, 1, 15, 14, 13, 4, 10, 0, 7, 6, 3, 9, 2, 8, 11],
     #v[13, 11, 7, 14, 12, 1, 3, 9, 5, 0, 15, 4, 8, 6, 2, 10],
     #v[6, 15, 14, 9, 11, 3, 0, 8, 12, 2, 13, 7, 1, 4, 10, 5],
     #v[10, 2, 8, 4, 7, 6, 1, 5, 15, 11, 9, 14, 3, 12, 13, 0]]

/-- The row round `r` uses: `SIGMA[r mod 10]` (R195, R198). -/
def sigmaRow (r : Nat) : Vector (Fin 16) 16 := sigma[r % 10]'(Nat.mod_lt r (by decide))

/-- One sub-step: `a += b + m; d = rotateRight(d ^ a, n)` (R193). -/
def mixStep (v : Block) (a b d : Fin 16) (m : Word) (n : Nat) : Block :=
  let v := v.set a (add32 (add32 v[a] v[b]) m)
  v.set d (rotr32 (v[d] ^^^ v[a]) n)

/-- The mix `G(v, a, b, c, d, x, y)`: the four sub-steps of R193 in their order; the second and fourth play the roles (c, d, b) with
message word zero. -/
def mixG (v : Block) (a b c d : Fin 16) (x y : Word) : Block :=
  let v := mixStep v a b d x 16
  let v := mixStep v c d b 0#32 12
  let v := mixStep v a b d y 8
  mixStep v c d b 0#32 7

/-- One Blake2s round with schedule row `s`: four column mixes, then four diagonal mixes (R196). -/
def blakeRound (m : Block) (s : Vector (Fin 16) 16) (v : Block) : Block :=
  let v := mixG v 0 4 8 12 m[s[0]] m[s[1]]
  let v := mixG v 1 5 9 13 m[s[2]] m[s[3]]
  let v := mixG v 2 6 10 14 m[s[4]] m[s[5]]
  let v := mixG v 3 7 11 15 m[s[6]] m[s[7]]
  let v := mixG v 0 5 10 15 m[s[8]] m[s[9]]
  let v := mixG v 1 6 11 12 m[s[10]] m[s[11]]
  let v := mixG v 2 7 8 13 m[s[12]] m[s[13]]
  mixG v 3 4 9 14 m[s[14]] m[s[15]]

/-- Rounds 0 to `nr - 1`, in order (R196, R198). -/
def blakeRounds (m : Block) : Nat → Block → Block
  | 0, v => v
  | r + 1, v => blakeRound m (sigmaRow r) (blakeRounds m r v)

/-- The working register before round 0: the chaining value, `IV[0..3]`, then `IV[4..7]` XOR counter and flag halves (R196). -/
def blakeInit (h : Chain) (ctr aux : DWord) : Block :=
  #v[h[0], h[1], h[2], h[3], h[4], h[5], h[6], h[7], blakeIv[0], blakeIv[1], blakeIv[2], blakeIv[3],
     blakeIv[4] ^^^ lo32 ctr, blakeIv[5] ^^^ hi32 ctr, blakeIv[6] ^^^ lo32 aux, blakeIv[7] ^^^ hi32 aux]

/-- The compression function `F` (R196), with the counter and the flag as the 64-bit `CTR` and `AUX` (R190). -/
def compress (h : Chain) (m : Block) (nr : BitVec 8) (ctr aux : DWord) : Chain :=
  let v := blakeRounds m nr.toNat (blakeInit h ctr aux)
  Vector.ofFn fun i => h[i] ^^^ v[i.val] ^^^ v[i.val + 8]

/-- `B2SCOMP bm, nr` (R197): `H` is replaced in place, all eight words at once. -/
def execB2scomp (bm : BsReg) (nr : BitVec 8) (s : State) : Host.Outcome State Fault Refusal :=
  runChecked (b2scompChecks bm s) s (s.writeChain (compress s.h s.b[bm] nr s.ctr s.aux))

end Sys2Proof.Machine
end

