-- ==== Sys2Proof/Machine/BlockState.lean ====
section
/-! DEFINITION. The BlockState commands: `BSLDW`, `BSLDB`, `BSRDW`, `BSSTB` (40_blockstate.md, R120 to R124). -/

namespace Sys2Proof.Machine

/-- `BSLDW bd` (R120): construct from the sixteen words of `WIN`. No check. -/
def execBsldw (bd : BsReg) (s : State) : Host.Outcome State Fault Refusal :=
  runChecked [] s (s.writeBlock bd s.win)

/-- `BSLDB bd, bufk` (R121): construct from the exactly 64 bytes of a buffer. -/
def execBsldb (bd : BsReg) (k : BufReg) (s : State) : Host.Outcome State Fault Refusal :=
  runChecked (bsldbChecks k s) s (s.writeBlock bd (s.mem.readBlock (s.buf[k]).base.toNat))

/-- Word `idx` of a BlockState; an index past 15 has no word and is never read (R122), log 19. -/
def blockWord (w : Block) (idx : BitVec 8) : Word := w.toList.getD idx.toNat 0#32

/-- `BSRDW bs, idx` (R122): `DATA <- B[bs][idx]`. -/
def execBsrdw (bs : BsReg) (idx : BitVec 8) (s : State) : Host.Outcome State Fault Refusal :=
  runChecked (bsrdwChecks bs idx s) s (s.writeData (blockWord s.b[bs] idx))

/-- `BSSTB bs, bufk` (R123): the 64 image bytes to the buffer at offset `OFFA`. -/
def execBsstb (bs : BsReg) (k : BufReg) (s : State) : Host.Outcome State Fault Refusal :=
  runChecked (bsstbChecks bs k s) s (s.writeMem (s.mem.writeBytes ((s.buf[k]).start s.offa) (blockImage s.b[bs])))

end Sys2Proof.Machine
end

