-- ==== Sys2Proof/Machine/ChaCha.lean ====
section
/-! DEFINITION. The ChaCha round core: `CHACHA` and `CTRINC` (42_chacha.md, R170 to R178). -/

namespace Sys2Proof.Machine

/-- One add-XOR-rotate step: `v[a] <- add32(v[a], v[b]) ; v[d] <- rotl32(v[d] ^ v[a], n)` (a line of R171). -/
def chachaStep (v : Block) (a b d : Fin 16) (n : Nat) : Block :=
  let v := v.set a (add32 v[a] v[b])
  v.set d (rotl32 (v[d] ^^^ v[a]) n)

/-- The quarter-round `QR(v, a, b, c, d)`: the four steps of R171, twelve operations, in their order. -/
def quarterRound (v : Block) (a b c d : Fin 16) : Block :=
  let v := chachaStep v a b d 16
  let v := chachaStep v c d b 12
  let v := chachaStep v a b d 8
  chachaStep v c d b 7

/-- The column pass: the four column quarter-rounds (R173, R11). -/
def columnPass (v : Block) : Block :=
  let v := quarterRound v 0 4 8 12
  let v := quarterRound v 1 5 9 13
  let v := quarterRound v 2 6 10 14
  quarterRound v 3 7 11 15

/-- The diagonal pass: the four diagonal quarter-rounds (R173, R11). -/
def diagonalPass (v : Block) : Block :=
  let v := quarterRound v 0 5 10 15
  let v := quarterRound v 1 6 11 12
  let v := quarterRound v 2 7 8 13
  quarterRound v 3 4 9 14

/-- One double-round `DR(v)`: columns, then diagonals (R173). -/
def doubleRound (v : Block) : Block := diagonalPass (columnPass v)

/-- `ndr` double-rounds (R174). -/
def doubleRounds : Nat → Block → Block
  | 0, v => v
  | n + 1, v => doubleRound (doubleRounds n v)

/-- The initial working register: words 0 to 11 of the source, then `CTR` and `AUX`, low half first; words 12 to 15 of the source
are not read (R172). -/
def chachaInit (src : Block) (ctr aux : DWord) : Block :=
  (((src.set 12 (lo32 ctr)).set 13 (hi32 ctr)).set 14 (lo32 aux)).set 15 (hi32 aux)

/-- The output: word by word added to the initial register with feed-forward, as it is without (R174). -/
def feedForward (ff : Bool) (v init : Block) : Block := if ff then Vector.zipWith add32 v init else v

/-- The whole transform, a function of the source, `CTR`, `AUX`, `ndr` and `FF` alone (R177). -/
def chachaBlock (src : Block) (ctr aux : DWord) (ndr : BitVec 8) (ff : Bool) : Block :=
  let init := chachaInit src ctr aux
  feedForward ff (doubleRounds ndr.toNat init) init

/-- `CHACHA bd, bs, ndr[, ff]` (R175). -/
def execChacha (bd bs : BsReg) (ndr : BitVec 8) (ff : Bool) (s : State) : Host.Outcome State Fault Refusal :=
  runChecked (chachaChecks bs s) s (s.writeBlock bd (chachaBlock s.b[bs] s.ctr s.aux ndr ff))

/-- `CTRINC` (R178): the 64-bit counter plus one, or `Overflow` with the counter unchanged. -/
def execCtrinc (s : State) : Host.Outcome State Fault Refusal :=
  runChecked (ctrincChecks s) s { s with ctr := s.ctr + 1#64 }

end Sys2Proof.Machine
end

