-- ==== Sys2Proof/Machine/Flags.lean ====
section
/-! DEFINITION. The one flag and the status register: how `VEQ` computes `EQ` (R146, R147), how `STATUS` reads and what a write to
it does (R27). -/

namespace Sys2Proof.Machine

/-- The value `VEQ` gives `EQ` (R146): if either buffer is empty, whether both are (step 1, R147); true for the same range
(step 2); else whether the two lists of `n` bytes are equal (step 3). -/
def equalsResult (m : Memory) (lenA lenB : Word) (sa sb n : Nat) : Bool :=
  if lenA.toNat = 0 ∨ lenB.toNat = 0 then decide (lenA.toNat = 0 ∧ lenB.toNat = 0)
  else if coincide sa sb then true
  else m.readBytes sa n == m.readBytes sb n

/-- `STATUS.ERR` as its four bits (R27). -/
def errField : Option CmdError → BitVec 4
  | none => 0#4
  | some e => e.code

/-- `STATUS.BVALID`: bit `r` is `BV[r]` (R27). -/
def State.bvalid (s : State) : BitVec 4 :=
  BitVec.ofBool s.bv[3] ++ BitVec.ofBool s.bv[2] ++ BitVec.ofBool s.bv[1] ++ BitVec.ofBool s.bv[0]

/-- `BUFV`: bit `k` is `BUF[k].V` (R32). -/
def State.bufv (s : State) : BitVec 4 :=
  BitVec.ofBool (s.buf[3]).v ++ BitVec.ofBool (s.buf[2]).v ++ BitVec.ofBool (s.buf[1]).v ++ BitVec.ofBool (s.buf[0]).v

/-- `STATUS` as the host reads it: bits 31:21 zero, 20 `HVALID`, 19:16 `BVALID`, 15:13 zero, 12:8 `STICKY`, 7:5 zero, 4 `EQ`,
3:0 `ERR` (R27). -/
def State.statusWord (s : State) : Word :=
  0#11 ++ BitVec.ofBool s.hv ++ s.bvalid ++ 0#3 ++ s.sticky ++ 0#3 ++ BitVec.ofBool s.eq ++ errField s.err

/-- A host write of `w` to `STATUS` clears each `STICKY` bit whose bit in 12:8 of `w` is 1, and changes nothing else (R27). -/
def State.clearSticky (s : State) (w : Word) : State := { s with sticky := s.sticky &&& ~~~(w.extractLsb' 8 5) }

end Sys2Proof.Machine
end

