-- ==== Sys2Proof/Machine/VectorMemory.lean ====
section
/-! DEFINITION. The VectorMemory commands: `VCOPY`, `VEQ`, `VXOR` (41_vectormemory.md, R140 to R148). The stride pattern of R149 is
not modelled, as R149 says (log 12). -/

namespace Sys2Proof.Machine

/-- The result of a copy, as if a temporary were used: all source bytes are read first (R144). -/
def Memory.copyBytes (m : Memory) (sa sb n : Nat) : Memory := m.writeBytes sa (m.readBytes sb n)

/-- The result of an XOR, as if a temporary were used: `MEM'[sa+i] = MEM[sa+i] ^ MEM[sb+i]` on old bytes (R148 step 2). -/
def Memory.xorBytes (m : Memory) (sa sb n : Nat) : Memory :=
  m.writeBytes sa (List.zipWith (· ^^^ ·) (m.readBytes sa n) (m.readBytes sb n))

/-- `VCOPY bufa, bufb` (R144). -/
def execVcopy (ka kb : BufReg) (s : State) : Host.Outcome State Fault Refusal :=
  runChecked (vectorChecks ka kb s) s (s.writeMem (s.mem.copyBytes (s.startA ka) (s.startB kb) s.count))

/-- `VEQ bufa, bufb` (R146). -/
def execVeq (ka kb : BufReg) (s : State) : Host.Outcome State Fault Refusal :=
  runChecked (vectorChecks ka kb s) s
    (s.writeEq (equalsResult s.mem (s.buf[ka]).len (s.buf[kb]).len (s.startA ka) (s.startB kb) s.count))

/-- `VXOR bufa, bufb` (R148): coinciding ranges are left as they are (step 1), which is not what step 2 would give. -/
def execVxor (ka kb : BufReg) (s : State) : Host.Outcome State Fault Refusal :=
  runChecked (vectorChecks ka kb s) s
    (if coincide (s.startA ka) (s.startB kb) then s
     else s.writeMem (s.mem.xorBytes (s.startA ka) (s.startB kb) s.count))

end Sys2Proof.Machine
end

