-- ==== Sys2Proof/Machine/Dispatch.lean ====
section
/-! DEFINITION. The meaning of every command, one arm per constructor of Instr. -/

namespace Sys2Proof.Machine

def exec (i : Instr) (s : State) : Host.Outcome State Fault Refusal :=
  match i with
  | .bsldw bd => Sys2Proof.Machine.execBsldw bd s
  | .bsldb bd k => Sys2Proof.Machine.execBsldb bd k s
  | .bsrdw bs idx => Sys2Proof.Machine.execBsrdw bs idx s
  | .bsstb bs k => Sys2Proof.Machine.execBsstb bs k s
  | .vcopy ka kb => Sys2Proof.Machine.execVcopy ka kb s
  | .veq ka kb => Sys2Proof.Machine.execVeq ka kb s
  | .vxor ka kb => Sys2Proof.Machine.execVxor ka kb s
  | .chacha bd bs ndr ff => Sys2Proof.Machine.execChacha bd bs ndr ff s
  | .ctrinc => Sys2Proof.Machine.execCtrinc s
  | .hldw => Sys2Proof.Machine.execHldw s
  | .hrdw idx => Sys2Proof.Machine.execHrdw idx s
  | .b2scomp bm nr => Sys2Proof.Machine.execB2scomp bm nr s

end Sys2Proof.Machine
end

