-- ==== Sys2Proof/Machine/Window.lean ====
section
/-! DEFINITION. The register window: which register stands at which offset (R24), what a read returns and what a write does
(R91). A write to `CMD` performs a command and is not here (R92, Step.lean). -/

namespace Sys2Proof.Machine

/-- The registers of the window (R24). -/
inductive WindowReg where
  | id
  | cmd
  | status
  | data
  | ctrLo
  | ctrHi
  | auxLo
  | auxHi
  | cnt
  | offa
  | offb
  | bufv
  | bufBase (k : BufReg)
  | bufLen (k : BufReg)
  | win (i : Fin 16)
  deriving DecidableEq, Repr

/-- The offset of a register (R24). -/
def WindowReg.offset : WindowReg → Nat
  | .id => 0x00
  | .cmd => 0x04
  | .status => 0x08
  | .data => 0x0C
  | .ctrLo => 0x10
  | .ctrHi => 0x14
  | .auxLo => 0x18
  | .auxHi => 0x1C
  | .cnt => 0x20
  | .offa => 0x24
  | .offb => 0x28
  | .bufv => 0x2C
  | .bufBase k => 0x30 + 8 * k.val
  | .bufLen k => 0x34 + 8 * k.val
  | .win i => 0x80 + 4 * i.val

/-- Every register of the window, in the order of R24. -/
def windowRegs : List WindowReg :=
  [ .id, .cmd, .status, .data, .ctrLo, .ctrHi, .auxLo, .auxHi, .cnt, .offa, .offb, .bufv,
    .bufBase 0, .bufLen 0, .bufBase 1, .bufLen 1, .bufBase 2, .bufLen 2, .bufBase 3, .bufLen 3,
    .win 0, .win 1, .win 2, .win 3, .win 4, .win 5, .win 6, .win 7,
    .win 8, .win 9, .win 10, .win 11, .win 12, .win 13, .win 14, .win 15 ]

/-- The register at an offset; none at a reserved offset (R24). -/
def registerAt (off : Nat) : Option WindowReg := windowRegs.find? (fun r => r.offset == off)

/-- What reading a register returns, reserved bits 0; `CMD` reads 0 (R91, R25 to R33). -/
def readReg (s : State) : WindowReg → Word
  | .id => Config.idValue
  | .cmd => 0#32
  | .status => s.statusWord
  | .data => s.data
  | .ctrLo => lo32 s.ctr
  | .ctrHi => hi32 s.ctr
  | .auxLo => lo32 s.aux
  | .auxHi => hi32 s.aux
  | .cnt => s.cnt
  | .offa => s.offa
  | .offb => s.offb
  | .bufv => s.bufv.setWidth 32
  | .bufBase k => (s.buf[k]).base
  | .bufLen k => (s.buf[k]).len
  | .win i => s.win[i]

/-- What reading an offset returns: a reserved offset reads 0 (R91). -/
def readOffset (s : State) (off : Nat) : Word :=
  match registerAt off with
  | some r => readReg s r
  | none => 0#32

/-- The four valid bits from bits 3:0 of a value written to `BUFV` (R32). -/
def State.writeBufv (s : State) (w : Word) : State :=
  { s with buf := s.buf.mapFinIdx fun k d _ => { d with v := w.getLsbD k } }

/-- What writing a register does: `RW` registers store, `STATUS` clears sticky bits, `ID` and `DATA` ignore the write (R91). `CMD`
is not written here: the step performs the command. -/
def writeReg (s : State) (w : Word) : WindowReg → State
  | .id => s
  | .cmd => s
  | .status => s.clearSticky w
  | .data => s
  | .ctrLo => { s with ctr := pair64 (hi32 s.ctr) w }
  | .ctrHi => { s with ctr := pair64 w (lo32 s.ctr) }
  | .auxLo => { s with aux := pair64 (hi32 s.aux) w }
  | .auxHi => { s with aux := pair64 w (lo32 s.aux) }
  | .cnt => { s with cnt := w }
  | .offa => { s with offa := w }
  | .offb => { s with offb := w }
  | .bufv => s.writeBufv w
  | .bufBase k => { s with buf := s.buf.set k { s.buf[k] with base := w } }
  | .bufLen k => { s with buf := s.buf.set k { s.buf[k] with len := w } }
  | .win i => { s with win := s.win.set i w }

/-- What writing an offset other than `CMD` does: a reserved offset ignores the write (R91). -/
def writeOffset (s : State) (off : Nat) (w : Word) : State :=
  match registerAt off with
  | some r => writeReg s w r
  | none => s

end Sys2Proof.Machine
end

