-- ==== Sys2Proof/WellFormed.lean ====
section
/-! DEFINITION. Well-formed commands and well-formed host transactions. A command's operand fields are typed by their widths, so
every term of `Instr` passes its checks (R94: "no register-number field can be out of range"); a host transaction is well formed
when it is an aligned 32-bit access inside the window (R90). -/

namespace Sys2Proof

/-- The BlockState registers a command names. -/
def Instr.bsRegs : Instr → List Nat
  | .bsldw bd => [bd]
  | .bsldb bd _ => [bd]
  | .bsrdw bs _ => [bs]
  | .bsstb bs _ => [bs]
  | .vcopy _ _ => []
  | .veq _ _ => []
  | .vxor _ _ => []
  | .chacha bd bs _ _ => [bd, bs]
  | .ctrinc => []
  | .hldw => []
  | .hrdw _ => []
  | .b2scomp bm _ => [bm]

/-- The descriptors a command names. -/
def Instr.bufRegs : Instr → List Nat
  | .bsldw _ => []
  | .bsldb _ k => [k]
  | .bsrdw _ _ => []
  | .bsstb _ k => [k]
  | .vcopy ka kb => [ka, kb]
  | .veq ka kb => [ka, kb]
  | .vxor ka kb => [ka, kb]
  | .chacha _ _ _ _ => []
  | .ctrinc => []
  | .hldw => []
  | .hrdw _ => []
  | .b2scomp _ _ => []

/-- Every register and descriptor the command names exists (R94). -/
def Instr.wellFormed (i : Instr) : Bool :=
  i.bsRegs.all (· < Config.nbs) && i.bufRegs.all (· < Config.nbuf)

/-- The access is 32 bits wide (R90). -/
def Machine.Width.isWord : Machine.Width → Bool
  | .byte => false
  | .halfword => false
  | .word => true
  | .doubleword => false
  | .burst => false

/-- The offset is a multiple of four (R90). -/
def offsetAligned (off : Nat) : Bool := off % 4 == 0

/-- The word lies inside the window, `0 <= off <= 0xFC` for an aligned offset (R90). -/
def offsetInWindow (off : Nat) : Bool := off + 4 ≤ Config.windowSize

/-- A host move the interface gives a meaning: a window transaction is an aligned 32-bit access inside the window (R90); the
other moves have no form that is outside. -/
def Machine.HostMove.wellFormed : Machine.HostMove → Bool
  | .rd width off => width.isWord && offsetAligned off && offsetInWindow off
  | .wr width off _ => width.isWord && offsetAligned off && offsetInWindow off
  | .load _ => true
  | .store _ _ => true
  | .reset => true
  | .resetDuring _ => true

end Sys2Proof
end

