-- ==== Sys2Proof/Machine/HostMoves.lean ====
section
/-! DEFINITION. What a move of the host program does, up to the command word it may write: the next move (R22), window
transactions and their refusals (R90, R91), the host's own accesses to `MEM` (R74), reset and reset during a command (R260,
R261). -/

namespace Sys2Proof.Machine

/-- The next move of the host program; none when it has ended (R22). -/
def fetch (s : State) : Option HostMove := s.program[s.pc]?

/-- The value `w` goes back to the host as the move's result (R101, log 6). -/
def State.reply (s : State) (w : Word) : State := { s with results := s.results ++ [w] }

/-- Why a window transaction is refused, if it is: width first, then alignment, then the window's end (R90, log 5). -/
def transactionRefusal (width : Width) (off : Nat) : Option Refusal :=
  if !width.isWord then some .transactionWidth
  else if !offsetAligned off then some .transactionUnaligned
  else if !offsetInWindow off then some .transactionOutsideWindow
  else none

/-- What became of the bytes of `MEM` that the command `w` names as a destination, when reset arrived while it ran (R261): free
values if the command had passed its checks, else untouched. -/
def State.abandonStores (s : State) (w : Word) : State :=
  match decode w with
  | .error _ => s
  | .ok i =>
    match firstFailure (commandChecks i s) with
    | some _ => s
    | none =>
      match destinationRange i s with
      | none => s
      | some (a, n) => s.scramble a n

/-- What a move comes to: a command word to perform, or an outcome. -/
inductive HostAction where
  | command (w : Word)
  | settled (o : Host.Outcome State Fault Refusal)

/-- What a move does (R74, R90, R91, R92, R260, R261). -/
def hostAction (m : HostMove) (s : State) : HostAction :=
  match m with
  | .rd width off =>
    match transactionRefusal width off with
    | some r => .settled (.refused r)
    | none => .settled (.next (s.reply (readOffset s off)))
  | .wr width off value =>
    match transactionRefusal width off with
    | some r => .settled (.refused r)
    | none =>
      if off = WindowReg.cmd.offset then .command value
      else .settled (.next (writeOffset s off value))
  | .load a => .settled (.next (s.reply ((s.mem.readByte a.toNat).setWidth 32)))
  | .store a v => .settled (.next { s with mem := s.mem.writeByte a.toNat v })
  | .reset => .settled (.next s.resetRegisters)
  | .resetDuring w => .settled (.next (s.abandonStores w).resetRegisters)

/-- The move is done: `pc` advances by exactly 1, whether a command succeeded or failed (R22). -/
def advance : Host.Outcome State Fault Refusal → Host.Outcome State Fault Refusal
  | .next s => .next { s with pc := s.pc + 1 }
  | .fault r => .fault r
  | .refused r => .refused r

/-- `moves` with `m` at index `n`; a list shorter than `n` is filled with reads of `ID`, which change nothing but the results. -/
def placeMove (m : HostMove) : Nat → List HostMove → List HostMove
  | 0, [] => [m]
  | 0, _ :: rest => m :: rest
  | n + 1, [] => .rd .word WindowReg.id.offset :: placeMove m n []
  | n + 1, x :: rest => x :: placeMove m n rest

end Sys2Proof.Machine
end

