-- ==== Sys2Proof/Machine/Step.lean ====
section
/-! DEFINITION. One step: one move of the host program (R22, R71, log 1). -/

namespace Sys2Proof.Machine

/-- `wr CMD, w` (R92): decode, then perform the command; a word that is no command raises `IllegalCommand` (R97, R238). -/
def runCommand (w : Word) (s : State) : Host.Outcome State Fault Refusal :=
  match decode w with
  | .ok i => exec i s
  | .error e => illegalCommand e s

/-- What a move does, the command included. -/
def runMove (m : HostMove) (s : State) : Host.Outcome State Fault Refusal :=
  match hostAction m s with
  | .command w => runCommand w s
  | .settled o => o

/-- One step: the next move is done and `pc` advances; at the end of the host program the run has ended (R22). -/
def step (s : State) : Host.Outcome State Fault Refusal :=
  match fetch s with
  | none => .fault .runEnded
  | some m => advance (runMove m s)

/-- `s` with a host write of the command word `w` to `CMD` as its next move (log 20). -/
def State.withFetchWord (s : State) (nbits w : Nat) : State :=
  { s with
    program := placeMove (.wr .word WindowReg.cmd.offset (BitVec.ofNat 32 (w % 2 ^ nbits))) s.pc s.program }

end Sys2Proof.Machine
end

