-- ==== Sys2Proof/Machine/Direction.lean ====
section
/-! DEFINITION. The processing direction of R145: how an implementation moves overlapping bytes in place, one at a time, without a
temporary. No command calls it (the direction is not observable, R145); it is here so that the claim of R145, that each source byte
is read before the write that would overwrite it, can be stated (log 13). -/

namespace Sys2Proof.Machine

/-- Process `i = 0, 1, ..., n-1`: `MEM[sa+i] <- f MEM[sa+i] MEM[sb+i]`. -/
def Memory.moveAscending (f : Byte → Byte → Byte) (m : Memory) (sa sb : Nat) : Nat → Memory
  | 0 => m
  | n + 1 => Memory.moveAscending f (m.writeByte sa (f (m.readByte sa) (m.readByte sb))) (sa + 1) (sb + 1) n

/-- Process `i = n-1, ..., 1, 0`. -/
def Memory.moveDescending (f : Byte → Byte → Byte) (m : Memory) (sa sb : Nat) : Nat → Memory
  | 0 => m
  | n + 1 => Memory.moveDescending f (m.writeByte (sa + n) (f (m.readByte (sa + n)) (m.readByte (sb + n)))) sa sb n

/-- The direction of R145: on overlapping ranges ascending when a precedes b and descending when b precedes a; on disjoint ranges
any order, here the one `ascending` chooses. -/
def Memory.moveInPlace (f : Byte → Byte → Byte) (ascending : Bool) (m : Memory) (sa sb n : Nat) : Memory :=
  if overlap n sa sb then
    if precedes sa sb then m.moveAscending f sa sb n else m.moveDescending f sa sb n
  else if ascending then m.moveAscending f sa sb n
  else m.moveDescending f sa sb n

/-- Assignment: what `VCOPY` does with a byte of a and a byte of b. -/
def assignByte (_a b : Byte) : Byte := b

/-- XOR: what `VXOR` does with a byte of a and a byte of b. -/
def xorByte (a b : Byte) : Byte := a ^^^ b

end Sys2Proof.Machine
end

