-- ==== Sys2Proof/Safety.lean ====
section
/-! DEFINITION. What claims are stated in: the invariant, the failure record, and what a host can observe. -/

namespace Sys2Proof.Machine

/-- The invariant of the machine: `MEM` is in canonical form. -/
def State.Inv (s : State) : Prop := s.mem.wf = true

/-- No failure is recorded: `ERR` is `OK` and no sticky bit is set (R263). -/
def State.clean (s : State) : Prop := s.err = none ∧ s.sticky = 0#5

/-- A BlockState register as a command can see it: its words when its valid bit is set; the words behind a clear valid bit stand as
zeros (R21, U10). -/
def visibleBlock (valid : Bool) (w : Block) : Block := if valid then w else Vector.replicate 16 0#32

/-- The chaining value as a command can see it (R34, U10). -/
def visibleChain (valid : Bool) (w : Chain) : Chain := if valid then w else Vector.replicate 8 0#32

/-- The state with everything behind a clear valid bit taken out (R36: "unreadable"). -/
def State.visible (s : State) : State :=
  { s with b := Vector.zipWith visibleBlock s.bv s.b, h := visibleChain s.hv s.h }

/-- An outcome with a function applied to its next state. -/
def onNext (f : State → State) : Host.Outcome State Fault Refusal → Host.Outcome State Fault Refusal
  | .next s => .next (f s)
  | .fault r => .fault r
  | .refused r => .refused r

/-- The move is a reset of the platform (R260, R261). -/
def HostMove.isReset : HostMove → Bool
  | .rd _ _ => false
  | .wr _ _ _ => false
  | .load _ => false
  | .store _ _ => false
  | .reset => true
  | .resetDuring _ => true

end Sys2Proof.Machine
end

