-- ==== Sys2Proof/Certificates/Slice0/Obligations.lean ====
section
/-! DEFINITION. The statements for the provers, each from the numbered rules of spec/. The helpers under Sys2Proof.Claims write the
spec's tables a second time, as numbers and conditions, so that a statement does not lean on the definition it is about. -/

namespace Sys2Proof.Claims

open Sys2Proof Sys2Proof.Machine

/-! ## The command word (R93, R95) -/

/-- The `n` bits of `w` from bit `lo` up, as a number (R6). -/
def bits (w : Word) (lo n : Nat) : Nat := w.toNat / 2 ^ lo % 2 ^ n

/-- `R1` as a register or descriptor number. -/
def r1 (w : Word) : Fin 4 := Fin.ofNat 4 (bits w 22 2)

/-- `R2` as a register or descriptor number. -/
def r2 (w : Word) : Fin 4 := Fin.ofNat 4 (bits w 20 2)

/-- `IMM8`. -/
def imm8 (w : Word) : BitVec 8 := BitVec.ofNat 8 (bits w 12 8)

/-- `FF`. -/
def ff (w : Word) : Bool := bits w 11 1 == 1

/-- A row of the table of R95: match, mask, and the command with its fields. -/
structure SpecRow where
  pattern : Nat
  mask : Nat
  command : Word → Instr

/-- The table of R95. -/
def specRows : List SpecRow :=
  [ ⟨0x01000000, 0xFF3FFFFF, fun w => .bsldw (r1 w)⟩,
    ⟨0x02000000, 0xFF0FFFFF, fun w => .bsldb (r1 w) (r2 w)⟩,
    ⟨0x03000000, 0xFF300FFF, fun w => .bsrdw (r1 w) (imm8 w)⟩,
    ⟨0x04000000, 0xFF0FFFFF, fun w => .bsstb (r1 w) (r2 w)⟩,
    ⟨0x10000000, 0xFF0FFFFF, fun w => .vcopy (r1 w) (r2 w)⟩,
    ⟨0x11000000, 0xFF0FFFFF, fun w => .veq (r1 w) (r2 w)⟩,
    ⟨0x12000000, 0xFF0FFFFF, fun w => .vxor (r1 w) (r2 w)⟩,
    ⟨0x20000000, 0xFF0007FF, fun w => .chacha (r1 w) (r2 w) (imm8 w) (ff w)⟩,
    ⟨0x21000000, 0xFFFFFFFF, fun _ => .ctrinc⟩,
    ⟨0x30000000, 0xFFFFFFFF, fun _ => .hldw⟩,
    ⟨0x31000000, 0xFFF00FFF, fun w => .hrdw (imm8 w)⟩,
    ⟨0x32000000, 0xFFC00FFF, fun w => .b2scomp (r2 w) (imm8 w)⟩ ]

/-- `(w & mask) = match`. -/
def SpecRow.isMatch (r : SpecRow) (w : Word) : Bool := Nat.land w.toNat r.mask == r.pattern

/-- `w` is the word with these field values (R93). -/
def word (op r1 r2 imm ff : Nat) : Word :=
  BitVec.ofNat 32 (op * 2 ^ 24 + r1 * 2 ^ 22 + r2 * 2 ^ 20 + imm * 2 ^ 12 + ff * 2 ^ 11)

/-! ## Errors (R231, R232, R236) -/

/-- The code of an error (R231). -/
def code : CmdError → Nat
  | .invalidLength => 1
  | .indexOutOfRange => 2
  | .argumentNull => 3
  | .overflow => 4
  | .illegalCommand => 5

/-- What a failure with error `e` leaves (R236): `ERR` and `STATUS` bit `7 + code`, which is bit `code - 1` of `STICKY`. -/
def failed (e : CmdError) (s : State) : State :=
  { s with err := some e, sticky := s.sticky ||| BitVec.ofNat 5 (2 ^ (code e - 1)) }

/-- `BASE + LEN > 2^32` (R32). -/
def illFormed (d : Descriptor) : Prop := d.base.toNat + d.len.toNat > 2 ^ 32

/-- The error of the two-descriptor commands, if there is one (R141). -/
def vectorCause (ka kb : BufReg) (s : State) : Option CmdError :=
  if (s.buf[ka]).v = false ∨ (s.buf[kb]).v = false then some .argumentNull
  else if (s.buf[ka]).base.toNat + (s.buf[ka]).len.toNat > 2 ^ 32 ∨ (s.buf[kb]).base.toNat + (s.buf[kb]).len.toNat > 2 ^ 32 then
    some .indexOutOfRange
  else if s.offa.toNat + s.cnt.toNat > (s.buf[ka]).len.toNat ∨ s.offb.toNat + s.cnt.toNat > (s.buf[kb]).len.toNat then
    some .indexOutOfRange
  else none

/-- The error a command ends in, if it does: the table of R232, row by row, the first check that holds. -/
def cause (i : Instr) (s : State) : Option CmdError :=
  match i with
  | .bsldw _ => none
  | .bsldb _ k =>
    if (s.buf[k]).v = false then some .argumentNull
    else if (s.buf[k]).base.toNat + (s.buf[k]).len.toNat > 2 ^ 32 then some .indexOutOfRange
    else if (s.buf[k]).len.toNat ≠ 64 then some .invalidLength
    else none
  | .bsrdw bs idx =>
    if s.bv[bs] = false then some .argumentNull
    else if idx.toNat ≥ 16 then some .indexOutOfRange
    else none
  | .bsstb bs k =>
    if s.bv[bs] = false ∨ (s.buf[k]).v = false then some .argumentNull
    else if (s.buf[k]).base.toNat + (s.buf[k]).len.toNat > 2 ^ 32 then some .indexOutOfRange
    else if s.offa.toNat + 64 > (s.buf[k]).len.toNat then some .indexOutOfRange
    else none
  | .vcopy ka kb => vectorCause ka kb s
  | .veq ka kb => vectorCause ka kb s
  | .vxor ka kb => vectorCause ka kb s
  | .chacha _ bs _ _ => if s.bv[bs] = false then some .argumentNull else none
  | .ctrinc => if s.ctr.toNat = 2 ^ 64 - 1 then some .overflow else none
  | .hldw => none
  | .hrdw idx =>
    if s.hv = false then some .argumentNull
    else if idx.toNat ≥ 8 then some .indexOutOfRange
    else none
  | .b2scomp bm _ => if s.hv = false ∨ s.bv[bm] = false then some .argumentNull else none

/-- The error of a word written to `CMD`: `IllegalCommand` if it is no command, else the command's (R232, R233). -/
def wordCause (w : Word) (s : State) : Option CmdError :=
  match decode w with
  | .error _ => some .illegalCommand
  | .ok i => cause i s

/-- Both descriptors present and well formed, both ranges in bounds (R141 passed). -/
def vectorReady (ka kb : BufReg) (s : State) : Prop :=
  (s.buf[ka]).v = true ∧ (s.buf[kb]).v = true ∧ ¬ illFormed s.buf[ka] ∧ ¬ illFormed s.buf[kb] ∧
    s.offa.toNat + s.cnt.toNat ≤ (s.buf[ka]).len.toNat ∧ s.offb.toNat + s.cnt.toNat ≤ (s.buf[kb]).len.toNat

/-- `sa` of R140. -/
def startA (ka : BufReg) (s : State) : Nat := (s.buf[ka]).base.toNat + s.offa.toNat

/-- `sb` of R140. -/
def startB (kb : BufReg) (s : State) : Nat := (s.buf[kb]).base.toNat + s.offb.toNat

/-! ## What a command may write (R37) -/

/-- The BlockState register a command names as its destination. -/
def blockDestination : Instr → Option BsReg
  | .bsldw bd => some bd
  | .bsldb bd _ => some bd
  | .bsrdw _ _ => none
  | .bsstb _ _ => none
  | .vcopy _ _ => none
  | .veq _ _ => none
  | .vxor _ _ => none
  | .chacha bd _ _ _ => some bd
  | .ctrinc => none
  | .hldw => none
  | .hrdw _ => none
  | .b2scomp _ _ => none

/-- The commands that read a BlockState register or `H` (R37, columns `B src` and `H`). -/
def readsValid : Instr → Prop
  | .bsldw _ => False
  | .bsldb _ _ => False
  | .bsrdw _ _ => True
  | .bsstb _ _ => True
  | .vcopy _ _ => False
  | .veq _ _ => False
  | .vxor _ _ => False
  | .chacha _ _ _ _ => True
  | .ctrinc => False
  | .hldw => False
  | .hrdw _ => True
  | .b2scomp _ _ => True

/-- The commands that write `H`. -/
def writesChain (i : Instr) : Prop := i = .hldw ∨ ∃ bm nr, i = .b2scomp bm nr

/-- The commands that write `DATA`. -/
def writesData (i : Instr) : Prop := (∃ bs idx, i = .bsrdw bs idx) ∨ ∃ idx, i = .hrdw idx

/-- The commands that write `MEM`. -/
def writesMem (i : Instr) : Prop := (∃ bs k, i = .bsstb bs k) ∨ (∃ ka kb, i = .vcopy ka kb) ∨ ∃ ka kb, i = .vxor ka kb

/-- The destination bytes of the commands that store, as start and length (R123, R144, R148). -/
def stored (i : Instr) (s : State) (a n : Nat) : Prop :=
  (∃ bs k, i = .bsstb bs k ∧ a = (s.buf[k]).base.toNat + s.offa.toNat ∧ n = 64) ∨
  (∃ ka kb, (i = .vcopy ka kb ∨ i = .vxor ka kb) ∧ a = startA ka s ∧ n = s.cnt.toNat)

/-! ## The register window (R24, R91) -/

/-- What reading each listed offset of the window returns (R24, R91). -/
def windowValues (s : State) : List (Nat × Word) :=
  [ (0x00, 0x44534331#32), (0x04, 0#32), (0x08, s.statusWord), (0x0C, s.data),
    (0x10, BitVec.ofNat 32 s.ctr.toNat), (0x14, BitVec.ofNat 32 (s.ctr.toNat / 2 ^ 32)),
    (0x18, BitVec.ofNat 32 s.aux.toNat), (0x1C, BitVec.ofNat 32 (s.aux.toNat / 2 ^ 32)),
    (0x20, s.cnt), (0x24, s.offa), (0x28, s.offb),
    (0x2C, BitVec.ofNat 32 ((s.buf[0]).v.toNat + 2 * (s.buf[1]).v.toNat + 4 * (s.buf[2]).v.toNat + 8 * (s.buf[3]).v.toNat)),
    (0x30, (s.buf[0]).base), (0x34, (s.buf[0]).len), (0x38, (s.buf[1]).base), (0x3C, (s.buf[1]).len),
    (0x40, (s.buf[2]).base), (0x44, (s.buf[2]).len), (0x48, (s.buf[3]).base), (0x4C, (s.buf[3]).len) ]
  ++ (List.finRange 16).map (fun i => (0x80 + 4 * i.val, s.win[i]))

/-- What writing `w` to each listed offset of the window but `CMD` leaves (R24, R91, R27). -/
def windowEffects (s : State) (w : Word) : List (Nat × State) :=
  [ (0x00, s), (0x08, { s with sticky := s.sticky &&& ~~~(BitVec.ofNat 5 (w.toNat / 2 ^ 8)) }), (0x0C, s),
    (0x10, { s with ctr := BitVec.ofNat 64 (s.ctr.toNat / 2 ^ 32 * 2 ^ 32 + w.toNat) }),
    (0x14, { s with ctr := BitVec.ofNat 64 (w.toNat * 2 ^ 32 + s.ctr.toNat % 2 ^ 32) }),
    (0x18, { s with aux := BitVec.ofNat 64 (s.aux.toNat / 2 ^ 32 * 2 ^ 32 + w.toNat) }),
    (0x1C, { s with aux := BitVec.ofNat 64 (w.toNat * 2 ^ 32 + s.aux.toNat % 2 ^ 32) }),
    (0x20, { s with cnt := w }), (0x24, { s with offa := w }), (0x28, { s with offb := w }),
    (0x2C, { s with buf := #v[{ s.buf[0] with v := w.getLsbD 0 }, { s.buf[1] with v := w.getLsbD 1 },
                              { s.buf[2] with v := w.getLsbD 2 }, { s.buf[3] with v := w.getLsbD 3 }] }) ]
  ++ (List.finRange 4).map (fun k => (0x30 + 8 * k.val, { s with buf := s.buf.set k { s.buf[k] with base := w } }))
  ++ (List.finRange 4).map (fun k => (0x34 + 8 * k.val, { s with buf := s.buf.set k { s.buf[k] with len := w } }))
  ++ (List.finRange 16).map (fun i => (0x80 + 4 * i.val, { s with win := s.win.set i w }))

/-- An offset inside the window that no register stands at (R24). -/
def reservedOffset (off : Nat) : Prop := off % 4 = 0 ∧ ((0x50 ≤ off ∧ off < 0x80) ∨ (0xC0 ≤ off ∧ off < 0x100))

/-- The next move of the host program. -/
def nextMove (s : State) (m : HostMove) : Prop := s.program[s.pc]? = some m

end Sys2Proof.Claims

open Sys2Proof Sys2Proof.Machine Sys2Proof.Claims

/-! ## Encoding -/

/-- Words written out from the spec's encodings (R101's worked encodings, V-EN-1), one or more for each family, decode to the
command they stand for; the all-zero word is none (R97). -/
def Obligations.WorkedEncodingsDecode : Prop :=
  decode 0x01000000#32 = .ok (.bsldw 0) ∧ decode 0x02B00000#32 = .ok (.bsldb 2 3) ∧
  decode 0x0340F000#32 = .ok (.bsrdw 1 15#8) ∧ decode 0x04500000#32 = .ok (.bsstb 1 1) ∧
  decode 0x10100000#32 = .ok (.vcopy 0 1) ∧ decode 0x11B00000#32 = .ok (.veq 2 3) ∧ decode 0x12100000#32 = .ok (.vxor 0 1) ∧
  decode 0x2040A800#32 = .ok (.chacha 1 0 10#8 true) ∧ decode 0x2040A000#32 = .ok (.chacha 1 0 10#8 false) ∧
  decode 0x21000000#32 = .ok .ctrinc ∧ decode 0x30000000#32 = .ok .hldw ∧ decode 0x31007000#32 = .ok (.hrdw 7#8) ∧
  decode 0x3230A000#32 = .ok (.b2scomp 3 10#8) ∧ ∃ e, decode 0x00000000#32 = .error e

/-- Every command, with every operand at every value its field admits, decodes from its own word (R93, R94, R95). -/
def Obligations.DecodeEncodeRoundTrip : Prop := ∀ i : Instr, decode (encode i) = .ok i

/-- A decoded word is the word of the command it decoded to: one word a command (R93, R97: unused bits must be 0). -/
def Obligations.DecodedWordIsItsEncoding : Prop := ∀ (w : Word) (i : Instr), decode w = .ok i → encode i = w

/-- R104 with the table of R95: at most one row matches a word; a matching row gives the command, with its fields; no matching row
makes the word illegal. -/
def Obligations.DecodeFollowsOpcodeMap : Prop :=
  ∀ w : Word,
    (specRows.filter (·.isMatch w)).length ≤ 1 ∧
    (∀ r ∈ specRows, r.isMatch w = true → decode w = .ok (r.command w)) ∧
    ((∀ r ∈ specRows, r.isMatch w = false) → ∃ e, decode w = .error e)

/-- R97, R238: a word that matches no row raises `IllegalCommand`: `ERR` 5, sticky bit 12 (bit 4 of `STICKY`), nothing else; that
covers an unlisted `OP`, a listed one with a `ZERO` bit set, and a listed one with an unused field set. -/
def Obligations.IllegalWordRaisesIllegalCommand : Prop :=
  ∀ (w : Word) (s : State),
    ((∀ r ∈ specRows, r.isMatch w = false) →
      runCommand w s = .next { s with err := some .illegalCommand, sticky := s.sticky ||| 0b10000#5 }) ∧
    (bits w 24 8 ∉ [0x01, 0x02, 0x03, 0x04, 0x10, 0x11, 0x12, 0x20, 0x21, 0x30, 0x31, 0x32] →
      ∀ r ∈ specRows, r.isMatch w = false) ∧
    (bits w 0 11 ≠ 0 → ∀ r ∈ specRows, r.isMatch w = false) ∧
    (bits w 11 1 ≠ 0 → bits w 24 8 ≠ 0x20 → ∀ r ∈ specRows, r.isMatch w = false) ∧
    (bits w 12 8 ≠ 0 → bits w 24 8 ∉ [0x03, 0x20, 0x31, 0x32] → ∀ r ∈ specRows, r.isMatch w = false) ∧
    (bits w 20 2 ≠ 0 → bits w 24 8 ∈ [0x01, 0x03, 0x21, 0x30, 0x31] → ∀ r ∈ specRows, r.isMatch w = false) ∧
    (bits w 22 2 ≠ 0 → bits w 24 8 ∈ [0x21, 0x30, 0x31, 0x32] → ∀ r ∈ specRows, r.isMatch w = false)

/-! ## Steps -/

/-- A host write to `CMD` whose word decodes runs the command, and `pc` moves on by one (R22, R26, R92). -/
def Obligations.StepRunsDecodedCommand : Prop :=
  ∀ (s : State) (w : Word) (i : Instr), nextMove s (.wr .word 0x04 w) → decode w = .ok i →
    ∃ t, exec i s = .next t ∧ step s = .next { t with pc := s.pc + 1 }

/-- R22 as log 1 extends it to the host's other moves: `pc` starts at 0; a step that answers a next state moves it by exactly 1,
whether a command succeeded or failed, and leaves the program; the run ends exactly when `pc` is past the last move. -/
def Obligations.MoveAdvancesPcByOne : Prop :=
  State.reset.pc = 0 ∧
  (∀ s t : State, step s = .next t → t.pc = s.pc + 1 ∧ t.program = s.program) ∧
  (∀ s : State, step s = .fault .runEnded ↔ s.program.length ≤ s.pc)

/-- Every word written to `CMD` is answered with a next state: a command never stops the machine (R92, R230, R275). -/
def Obligations.CommandsAlwaysAnswer : Prop := ∀ (w : Word) (s : State), ∃ t, runCommand w s = .next t

/-! ## Errors -/

/-- R236: a command that ends in an error with code `c` has set `ERR` to it and `STATUS` bit `7 + c`, and changed nothing else. -/
def Obligations.FailureChangesOnlyErrAndSticky : Prop :=
  ∀ (w : Word) (s t : State) (e : CmdError), runCommand w s = .next t → t.err = some e → t = failed e s

/-- R235: a command that passes its checks ends with `ERR` 0 and `STICKY` as it was. -/
def Obligations.SuccessClearsErrKeepsSticky : Prop :=
  ∀ (i : Instr) (s : State), cause i s = none → ∃ t, exec i s = .next t ∧ t.err = none ∧ t.sticky = s.sticky

/-- R232 and R233: every word written to `CMD` ends in the first error of its row of the table, or in none. -/
def Obligations.CommandErrorIsFirstCause : Prop :=
  ∀ (w : Word) (s : State), ∃ t, runCommand w s = .next t ∧ t.err = wordCause w s

/-- R27, R237: a sticky bit that is set stays set through every step but a write of a 1 to it through `STATUS` and a reset. -/
def Obligations.StickyClearedOnlyByHostOrReset : Prop :=
  ∀ (s t : State) (m : HostMove) (c : Nat), nextMove s m → step s = .next t →
    s.sticky.getLsbD c = true → t.sticky.getLsbD c = false →
    m.isReset = true ∨ ∃ v : Word, m = .wr .word 0x08 v ∧ v.getLsbD (8 + c) = true

/-! ## Frames -/

/-- R37 and R38: whatever a command does, it writes no BlockState register but its destination, `H` only by `HLDW` and `B2SCOMP`,
`CTR` only by `CTRINC`, `DATA` only by `BSRDW` and `HRDW`, `EQ` only by `VEQ`, `MEM` only by `BSSTB`, `VCOPY` and `VXOR`; and it
never writes `WIN`, `AUX`, `CNT`, `OFFA`, `OFFB`, a descriptor, or anything of the host's. -/
def Obligations.CommandFrame : Prop :=
  ∀ (i : Instr) (s t : State), exec i s = .next t →
    (∀ r : BsReg, blockDestination i ≠ some r → t.b[r] = s.b[r] ∧ t.bv[r] = s.bv[r]) ∧
    (¬ writesChain i → t.h = s.h ∧ t.hv = s.hv) ∧
    (i ≠ .ctrinc → t.ctr = s.ctr) ∧
    (¬ writesData i → t.data = s.data) ∧
    ((¬ ∃ ka kb, i = .veq ka kb) → t.eq = s.eq) ∧
    (¬ writesMem i → t.mem = s.mem) ∧
    t.win = s.win ∧ t.aux = s.aux ∧ t.cnt = s.cnt ∧ t.offa = s.offa ∧ t.offb = s.offb ∧ t.buf = s.buf ∧
    t.program = s.program ∧ t.pc = s.pc ∧ t.results = s.results ∧ t.freeCount = s.freeCount

/-- R60, R62: every byte of `MEM` outside the bytes the command stores to reads as before; a command that stores nothing changes no
byte. -/
def Obligations.StoresStayInDestination : Prop :=
  ∀ (i : Instr) (s t : State) (x : Nat), s.Inv → exec i s = .next t →
    (∀ a n, stored i s a n → x < a ∨ a + n ≤ x) → t.mem.readByte x = s.mem.readByte x

/-- R23: `EQ` is bit 4 of `STATUS`; it is written only by a successful `VEQ`; every other command and every failing one leaves it,
no other command's effect depends on it, and no other move but reset changes it; after reset it is 0. -/
def Obligations.EqFlagWrittenOnlyByVeq : Prop :=
  State.reset.eq = false ∧ (∀ s : State, bits s.statusWord 4 1 = s.eq.toNat) ∧
  (∀ (i : Instr) (s : State) (q : Bool), (∀ ka kb, i ≠ .veq ka kb) →
    exec i { s with eq := q } = onNext (fun t => { t with eq := q }) (exec i s)) ∧
  (∀ (w : Word) (s t : State), runCommand w s = .next t →
    (t.err ≠ none ∨ ∀ ka kb, decode w ≠ .ok (.veq ka kb)) → t.eq = s.eq) ∧
  (∀ (ka kb : BufReg) (s t : State), exec (.veq ka kb) s = .next t → t.err = none →
    (t.eq = true ↔ ((s.buf[ka]).len.toNat = 0 ∧ (s.buf[kb]).len.toNat = 0) ∨
      ((s.buf[ka]).len.toNat ≠ 0 ∧ (s.buf[kb]).len.toNat ≠ 0 ∧
        ∀ i < s.cnt.toNat, s.mem.readByte (startA ka s + i) = s.mem.readByte (startB kb s + i)))) ∧
  (∀ (s t : State) (m : HostMove), nextMove s m → m.isReset = false → (∀ w, m ≠ .wr .word 0x04 w) → step s = .next t →
    t.eq = s.eq)

/-- R28: `DATA` is written by a successful `BSRDW` or `HRDW` with the word read, and by nothing else but reset; reading it changes
nothing but the host's results; after reset it is 0. That a read's value is appended to `State.results` is the model's choice, log 6
(DESIGN CHOICE), no rule of the spec. -/
def Obligations.DataWrittenOnlyByWordReads : Prop :=
  State.reset.data = 0#32 ∧
  (∀ (w : Word) (s t : State), runCommand w s = .next t →
    (t.err ≠ none ∨ ∀ i, decode w = .ok i → ¬ writesData i) → t.data = s.data) ∧
  (∀ (bs : BsReg) (idx : BitVec 8) (s t : State) (h : idx.toNat < 16), exec (.bsrdw bs idx) s = .next t → t.err = none →
    t.data = (s.b[bs])[idx.toNat]) ∧
  (∀ (idx : BitVec 8) (s t : State) (h : idx.toNat < 8), exec (.hrdw idx) s = .next t → t.err = none → t.data = s.h[idx.toNat]) ∧
  (∀ s : State, nextMove s (.rd .word 0x0C) → step s = .next { s with results := s.results ++ [s.data], pc := s.pc + 1 }) ∧
  (∀ (s t : State) (m : HostMove), nextMove s m → m.isReset = false → (∀ w, m ≠ .wr .word 0x04 w) → step s = .next t →
    t.data = s.data)

/-! ## Memory -/

/-- Every step keeps `MEM` in canonical form, from every state that has it (R60, R62). -/
def Obligations.StepKeepsMemoryCanonical : Prop := ∀ s t : State, s.Inv → step s = .next t → t.Inv

/-- The state after reset has the invariant; the placed command word does not disturb it. Both are about the model's own choices: that
reset lists no byte of `MEM`, which the spec leaves unspecified at power-on, is log 3 (DESIGN CHOICE), and the placing of a word is
log 20 (DESIGN CHOICE). -/
def Obligations.ResetMeetsInvariant : Prop :=
  State.reset.Inv ∧ ∀ (s : State) (nbits w : Nat), s.Inv → (s.withFetchWord nbits w).Inv

/-- R62: a write of a list of bytes sets `MEM[addr+i]` to byte `i` and changes no other byte. -/
def Obligations.MemWriteSetsItsBytesOnly : Prop :=
  ∀ (m : Memory) (a : Nat) (vs : List Byte) (x : Nat), m.wf = true → a + vs.length ≤ 2 ^ 32 →
    (m.writeBytes a vs).readByte x = if h : a ≤ x ∧ x - a < vs.length then vs[x - a]'h.2 else m.readByte x

/-- R61: a read of `n` bytes is the list of the `n` bytes from the address up, lowest address first. -/
def Obligations.MemReadListsBytesInOrder : Prop :=
  ∀ (m : Memory) (a n : Nat), (m.readBytes a n).length = n ∧ ∀ i < n, (m.readBytes a n)[i]? = some (m.readByte (a + i))

/-- Memories in canonical form that read the same at every address are the same data (R60: `MEM` is a function from addresses to
bytes). -/
def Obligations.CanonicalMemoriesWithEqualBytesAreEqual : Prop :=
  ∀ m m' : Memory, m.wf = true → m'.wf = true → (∀ x, m.readByte x = m'.readByte x) → m = m'

/-- R69, R61: an admitted range ends inside the 2^32 bytes of `MEM`, and inside its buffer. -/
def Obligations.AdmittedRangeInsideMemory : Prop :=
  ∀ (d : Descriptor) (off : Word) (n : Nat), d.admits off.toNat n = true →
    d.start off + n ≤ 2 ^ 32 ∧ d.start off + n ≤ d.base.toNat + d.len.toNat

/-! ## BlockState commands -/

/-- R120: `BSLDW`. -/
def Obligations.BsldwConstructsFromWords : Prop :=
  ∀ (bd : BsReg) (s : State),
    decode (word 0x01 bd 0 0 0) = .ok (.bsldw bd) ∧
    exec (.bsldw bd) s = .next { s with b := s.b.set bd s.win, bv := s.bv.set bd true, err := none }

/-- R121: `BSLDB`. -/
def Obligations.BsldbConstructsFromBytes : Prop :=
  ∀ (bd : BsReg) (k : BufReg) (s : State),
    decode (word 0x02 bd k 0 0) = .ok (.bsldb bd k) ∧
    ((s.buf[k]).v = false → exec (.bsldb bd k) s = .next (failed .argumentNull s)) ∧
    ((s.buf[k]).v = true → illFormed s.buf[k] → exec (.bsldb bd k) s = .next (failed .indexOutOfRange s)) ∧
    ((s.buf[k]).v = true → ¬ illFormed s.buf[k] → (s.buf[k]).len.toNat ≠ 64 →
      exec (.bsldb bd k) s = .next (failed .invalidLength s)) ∧
    ((s.buf[k]).v = true → ¬ illFormed s.buf[k] → (s.buf[k]).len.toNat = 64 →
      ∃ w : Block,
        exec (.bsldb bd k) s = .next { s with b := s.b.set bd w, bv := s.bv.set bd true, err := none } ∧
        ∀ (i : Nat) (hi : i < 16), (w[i]).toNat =
          (s.mem.readByte ((s.buf[k]).base.toNat + 4 * i)).toNat + 2 ^ 8 * (s.mem.readByte ((s.buf[k]).base.toNat + 4 * i + 1)).toNat
          + 2 ^ 16 * (s.mem.readByte ((s.buf[k]).base.toNat + 4 * i + 2)).toNat
          + 2 ^ 24 * (s.mem.readByte ((s.buf[k]).base.toNat + 4 * i + 3)).toNat)

/-- R122: `BSRDW`. -/
def Obligations.BsrdwReadsIndexedWord : Prop :=
  ∀ (bs : BsReg) (idx : BitVec 8) (s : State),
    decode (word 0x03 bs 0 idx.toNat 0) = .ok (.bsrdw bs idx) ∧
    (s.bv[bs] = false → exec (.bsrdw bs idx) s = .next (failed .argumentNull s)) ∧
    (s.bv[bs] = true → idx.toNat ≥ 16 → exec (.bsrdw bs idx) s = .next (failed .indexOutOfRange s)) ∧
    (s.bv[bs] = true → ∀ h : idx.toNat < 16,
      exec (.bsrdw bs idx) s = .next { s with data := (s.b[bs])[idx.toNat], err := none })

/-- R123: `BSSTB`. The stored bytes are byte `j` of word `i` at `BASE + OFFA + 4i + j`; exactly those 64 change. -/
def Obligations.BsstbSerializesToBytes : Prop :=
  ∀ (bs : BsReg) (k : BufReg) (s : State),
    decode (word 0x04 bs k 0 0) = .ok (.bsstb bs k) ∧
    (s.bv[bs] = false ∨ (s.buf[k]).v = false → exec (.bsstb bs k) s = .next (failed .argumentNull s)) ∧
    (s.bv[bs] = true → (s.buf[k]).v = true → illFormed s.buf[k] → exec (.bsstb bs k) s = .next (failed .indexOutOfRange s)) ∧
    (s.bv[bs] = true → (s.buf[k]).v = true → ¬ illFormed s.buf[k] → s.offa.toNat + 64 > (s.buf[k]).len.toNat →
      exec (.bsstb bs k) s = .next (failed .indexOutOfRange s)) ∧
    (s.bv[bs] = true → (s.buf[k]).v = true → ¬ illFormed s.buf[k] → s.offa.toNat + 64 ≤ (s.buf[k]).len.toNat →
      ∃ m : Memory,
        exec (.bsstb bs k) s = .next { s with mem := m, err := none } ∧
        (s.Inv →
          (∀ (i j : Nat) (hi : i < 16), j < 4 →
            (m.readByte ((s.buf[k]).base.toNat + s.offa.toNat + 4 * i + j)).toNat = ((s.b[bs])[i]).toNat / 2 ^ (8 * j) % 2 ^ 8) ∧
          ∀ x, x < (s.buf[k]).base.toNat + s.offa.toNat ∨ (s.buf[k]).base.toNat + s.offa.toNat + 64 ≤ x →
            m.readByte x = s.mem.readByte x))

/-- R124: the byte image of a BlockState has byte `j` of word `i` at position `4i + j`, and constructing and serializing are inverse
to each other. -/
def Obligations.SerializeAndConstructAreInverse : Prop :=
  (∀ w : Block, (blockImage w).length = 64 ∧ ∀ (i j : Nat) (hi : i < 16), j < 4 → (blockImage w)[4 * i + j]? = some (byteOf w[i] j)) ∧
  (∀ (m : Memory) (a : Nat), blockImage (m.readBlock a) = m.readBytes a 64) ∧
  (∀ (m : Memory) (a : Nat) (w : Block), m.wf = true → a + 64 ≤ 2 ^ 32 → (m.writeBytes a (blockImage w)).readBlock a = w)

/-! ## VectorMemory commands -/

/-- R141 and R142: the three checks of `VCOPY`, `VEQ` and `VXOR`, in order, with sums that do not wrap; a failing one changes
nothing but `ERR` and `STICKY`. -/
def Obligations.VectorCommandsValidateFirst : Prop :=
  ∀ (ka kb : BufReg) (s : State) (i : Instr), i = .vcopy ka kb ∨ i = .veq ka kb ∨ i = .vxor ka kb →
    ((s.buf[ka]).v = false ∨ (s.buf[kb]).v = false → exec i s = .next (failed .argumentNull s)) ∧
    ((s.buf[ka]).v = true → (s.buf[kb]).v = true → illFormed s.buf[ka] ∨ illFormed s.buf[kb] →
      exec i s = .next (failed .indexOutOfRange s)) ∧
    ((s.buf[ka]).v = true → (s.buf[kb]).v = true → ¬ illFormed s.buf[ka] → ¬ illFormed s.buf[kb] →
      s.offa.toNat + s.cnt.toNat > (s.buf[ka]).len.toNat ∨ s.offb.toNat + s.cnt.toNat > (s.buf[kb]).len.toNat →
      exec i s = .next (failed .indexOutOfRange s))

/-- R144: `VCOPY`. Byte `i` of a receives byte `i` of b as it was; every byte outside a is unchanged. -/
def Obligations.VcopyMovesBytes : Prop :=
  ∀ (ka kb : BufReg) (s : State),
    decode (word 0x10 ka kb 0 0) = .ok (.vcopy ka kb) ∧
    (∀ e, vectorCause ka kb s = some e → exec (.vcopy ka kb) s = .next (failed e s)) ∧
    (vectorReady ka kb s →
      ∃ m : Memory,
        exec (.vcopy ka kb) s = .next { s with mem := m, err := none } ∧
        (s.Inv → ∀ x, m.readByte x =
          if startA ka s ≤ x ∧ x < startA ka s + s.cnt.toNat then s.mem.readByte (startB kb s + (x - startA ka s))
          else s.mem.readByte x))

/-- R146 and R147: `VEQ`. If a buffer is empty, `EQ` says whether both are; else it says whether the bytes are equal, which the same
range always is. -/
def Obligations.VeqComparesBytes : Prop :=
  ∀ (ka kb : BufReg) (s : State),
    decode (word 0x11 ka kb 0 0) = .ok (.veq ka kb) ∧
    (∀ e, vectorCause ka kb s = some e → exec (.veq ka kb) s = .next (failed e s)) ∧
    (vectorReady ka kb s →
      ∃ q : Bool,
        exec (.veq ka kb) s = .next { s with eq := q, err := none } ∧
        ((s.buf[ka]).len.toNat = 0 ∨ (s.buf[kb]).len.toNat = 0 →
          (q = true ↔ (s.buf[ka]).len.toNat = 0 ∧ (s.buf[kb]).len.toNat = 0)) ∧
        ((s.buf[ka]).len.toNat ≠ 0 → (s.buf[kb]).len.toNat ≠ 0 → startA ka s = startB kb s → q = true) ∧
        ((s.buf[ka]).len.toNat ≠ 0 → (s.buf[kb]).len.toNat ≠ 0 →
          (q = true ↔ ∀ i < s.cnt.toNat, s.mem.readByte (startA ka s + i) = s.mem.readByte (startB kb s + i))))

/-- R148: `VXOR`. Coinciding ranges: nothing happens. Else byte `i` of a becomes the XOR of the old byte `i` of a and of b; every
byte outside a is unchanged. -/
def Obligations.VxorCombinesBytes : Prop :=
  ∀ (ka kb : BufReg) (s : State),
    decode (word 0x12 ka kb 0 0) = .ok (.vxor ka kb) ∧
    (∀ e, vectorCause ka kb s = some e → exec (.vxor ka kb) s = .next (failed e s)) ∧
    (vectorReady ka kb s → startA ka s = startB kb s → exec (.vxor ka kb) s = .next { s with err := none }) ∧
    (vectorReady ka kb s → startA ka s ≠ startB kb s →
      ∃ m : Memory,
        exec (.vxor ka kb) s = .next { s with mem := m, err := none } ∧
        (s.Inv → ∀ x, m.readByte x =
          if startA ka s ≤ x ∧ x < startA ka s + s.cnt.toNat then
            s.mem.readByte x ^^^ s.mem.readByte (startB kb s + (x - startA ka s))
          else s.mem.readByte x))

/-- R143: with `CNT = 0` and the checks passed, `VCOPY` and `VXOR` change nothing but `ERR`, and `VEQ` answers true unless exactly
one of the two buffers has length 0. -/
def Obligations.ZeroCountVectorCommands : Prop :=
  ∀ (ka kb : BufReg) (s : State), vectorReady ka kb s → s.cnt.toNat = 0 →
    exec (.vcopy ka kb) s = .next { s with err := none } ∧
    exec (.vxor ka kb) s = .next { s with err := none } ∧
    ∃ q : Bool, exec (.veq ka kb) s = .next { s with eq := q, err := none } ∧
      (q = true ↔ ((s.buf[ka]).len.toNat = 0 ↔ (s.buf[kb]).len.toNat = 0))

/-- R145: moving byte by byte in place, ascending when a precedes an overlapping b, descending when b precedes an overlapping a, in
either order on disjoint ranges, gives the result of a temporary copy, for assignment and, on ranges that do not coincide, for
XOR. -/
def Obligations.InPlaceDirectionMatchesTemporary : Prop :=
  ∀ (m : Memory) (sa sb n : Nat) (ascending : Bool), m.wf = true → sa + n ≤ 2 ^ 32 → sb + n ≤ 2 ^ 32 →
    m.moveInPlace assignByte ascending sa sb n = m.copyBytes sa sb n ∧
    (sa ≠ sb → m.moveInPlace xorByte ascending sa sb n = m.xorBytes sa sb n)

/-- R148, corner cases: on disjoint ranges a second `VXOR` restores `MEM`. -/
def Obligations.DisjointXorTwiceRestores : Prop :=
  ∀ (ka kb : BufReg) (s : State), s.Inv → vectorReady ka kb s →
    startA ka s + s.cnt.toNat ≤ startB kb s ∨ startB kb s + s.cnt.toNat ≤ startA ka s →
    ∃ t, exec (.vxor ka kb) s = .next t ∧ exec (.vxor ka kb) t = .next { s with err := none }

/-! ## ChaCha commands -/

/-- R172, R173, R174, R175: `CHACHA`. The initial register is words 0 to 11 of the source, then `CTR` and `AUX`, low half first; each
of `ndr` double-rounds is the four column quarter-rounds, then the four diagonal ones; the output is added to the initial register
when `FF` is 1; its byte image is the keystream block. -/
def Obligations.ChachaAppliesDoubleRounds : Prop :=
  ∀ (bd bs : BsReg) (ndr : BitVec 8) (ff : Bool) (s : State),
    decode (word 0x20 bd bs ndr.toNat ff.toNat) = .ok (.chacha bd bs ndr ff) ∧
    (s.bv[bs] = false → exec (.chacha bd bs ndr ff) s = .next (failed .argumentNull s)) ∧
    (s.bv[bs] = true →
      ∃ (v : Nat → Block) (init out : Block),
        exec (.chacha bd bs ndr ff) s = .next { s with b := s.b.set bd out, bv := s.bv.set bd true, err := none } ∧
        (∀ (i : Nat) (hi : i < 12), init[i] = (s.b[bs])[i]) ∧
        (init[12]).toNat = s.ctr.toNat % 2 ^ 32 ∧ (init[13]).toNat = s.ctr.toNat / 2 ^ 32 ∧
        (init[14]).toNat = s.aux.toNat % 2 ^ 32 ∧ (init[15]).toNat = s.aux.toNat / 2 ^ 32 ∧
        v 0 = init ∧
        (∀ r < ndr.toNat,
          let q := quarterRound
          v (r + 1) = q (q (q (q (q (q (q (q (v r) 0 4 8 12) 1 5 9 13) 2 6 10 14) 3 7 11 15)
            0 5 10 15) 1 6 11 12) 2 7 8 13) 3 4 9 14) ∧
        (∀ (i : Nat) (hi : i < 16), out[i] = if ff then (v ndr.toNat)[i] + init[i] else (v ndr.toNat)[i]) ∧
        ∀ (i j : Nat) (hi : i < 16), j < 4 →
          (blockImage out)[4 * i + j]? = some (BitVec.ofNat 8 ((out[i]).toNat / 2 ^ (8 * j))))

/-- R173: a double-round is the four column quarter-rounds followed by the four diagonal ones, in the order listed; the order inside
a pass does not change the result. -/
def Obligations.DoubleRoundIsColumnsThenDiagonals : Prop :=
  ∀ (v : Block) (columns diagonals : List (Fin 16 × Fin 16 × Fin 16 × Fin 16)),
    columns.Perm [(0, 4, 8, 12), (1, 5, 9, 13), (2, 6, 10, 14), (3, 7, 11, 15)] →
    diagonals.Perm [(0, 5, 10, 15), (1, 6, 11, 12), (2, 7, 8, 13), (3, 4, 9, 14)] →
    doubleRound v = (columns ++ diagonals).foldl (fun w q => quarterRound w q.1 q.2.1 q.2.2.1 q.2.2.2) v

/-- R171: the quarter-round on four distinct words, as the twelve operations give it; every other word is unchanged. -/
def Obligations.QuarterRoundOperations : Prop :=
  ∀ (v : Block) (a b c d : Fin 16), a ≠ b → a ≠ c → a ≠ d → b ≠ c → b ≠ d → c ≠ d →
    let a1 := v[a] + v[b]
    let d1 := (v[d] ^^^ a1).rotateLeft 16
    let c1 := v[c] + d1
    let b1 := (v[b] ^^^ c1).rotateLeft 12
    let a2 := a1 + b1
    let d2 := (d1 ^^^ a2).rotateLeft 8
    let c2 := c1 + d2
    let b2 := (b1 ^^^ c2).rotateLeft 7
    let q := quarterRound v a b c d
    q[a] = a2 ∧ q[b] = b2 ∧ q[c] = c2 ∧ q[d] = d2 ∧
      ∀ x : Fin 16, x ≠ a → x ≠ b → x ≠ c → x ≠ d → q[x] = v[x]

/-- R173: quarter-rounds that touch disjoint words commute, so that the order inside a pass does not change the result. -/
def Obligations.DisjointQuarterRoundsCommute : Prop :=
  ∀ (v : Block) (a b c d a' b' c' d' : Fin 16), [a, b, c, d, a', b', c', d'].Nodup →
    quarterRound (quarterRound v a b c d) a' b' c' d' = quarterRound (quarterRound v a' b' c' d') a b c d

/-- R7: the rotations are rotations, and a right rotation is the left rotation by the rest of 32. -/
def Obligations.RotationsAreRotations : Prop :=
  ∀ (x : Word) (n : Nat), 0 < n → n < 32 →
    rotl32 x n = x.rotateLeft n ∧ rotr32 x n = x.rotateRight n ∧ rotr32 x n = rotl32 x (32 - n)

/-- R177: without feed-forward the map from the initial register to the output is a bijection for every number of double-rounds. -/
def Obligations.DoubleRoundsAreBijective : Prop := ∀ n : Nat, Function.Bijective (doubleRounds n)

/-- R177, R179: the result of `CHACHA` is a function of words 0 to 11 of the source, `CTR`, `AUX`, the round count and `FF`, and of
nothing else in the state; in particular not of words 12 to 15 of the source. -/
def Obligations.ChachaDependsOnNothingElse : Prop :=
  ∀ (bd bs : BsReg) (ndr : BitVec 8) (ff : Bool) (s s' : State), s.bv[bs] = true → s'.bv[bs] = true →
    (∀ (i : Nat) (hi : i < 12), (s.b[bs])[i] = (s'.b[bs])[i]) → s.ctr = s'.ctr → s.aux = s'.aux →
    ∃ t t', exec (.chacha bd bs ndr ff) s = .next t ∧ exec (.chacha bd bs ndr ff) s' = .next t' ∧ t.b[bd] = t'.b[bd]

/-- R178: `CTRINC`. The counter grows by one with a carry across its halves, and never wraps: at 2^64 - 1 it stays. -/
def Obligations.CtrincCountsOrOverflows : Prop :=
  ∀ s : State,
    decode (word 0x21 0 0 0 0) = .ok .ctrinc ∧
    (s.ctr.toNat = 2 ^ 64 - 1 → exec .ctrinc s = .next (failed .overflow s)) ∧
    (s.ctr.toNat ≠ 2 ^ 64 - 1 →
      ∃ c : DWord, exec .ctrinc s = .next { s with ctr := c, err := none } ∧ c.toNat = s.ctr.toNat + 1)

/-! ## Blake2s commands -/

/-- R191: `HLDW`. -/
def Obligations.HldwLoadsChainingValue : Prop :=
  decode (word 0x30 0 0 0 0) = .ok .hldw ∧
  ∀ s : State, ∃ h : Chain,
    exec .hldw s = .next { s with h := h, hv := true, err := none } ∧ ∀ (i : Nat) (hi : i < 8), h[i] = s.win[i]

/-- R192: `HRDW`. -/
def Obligations.HrdwReadsChainingWord : Prop :=
  ∀ (idx : BitVec 8) (s : State),
    decode (word 0x31 0 0 idx.toNat 0) = .ok (.hrdw idx) ∧
    (s.hv = false → exec (.hrdw idx) s = .next (failed .argumentNull s)) ∧
    (s.hv = true → idx.toNat ≥ 8 → exec (.hrdw idx) s = .next (failed .indexOutOfRange s)) ∧
    (s.hv = true → ∀ h : idx.toNat < 8, exec (.hrdw idx) s = .next { s with data := s.h[idx.toNat], err := none })

/-- R196, R197: `B2SCOMP`. The working register starts as the chaining value, the IV and the IV XOR the halves of `CTR` and `AUX`;
round `r` uses row `r mod 10` of the table, entries `2i` and `2i + 1` for mix `i`; the new chaining value is the old one XOR both
halves of the working register. -/
def Obligations.B2scompCompressesBlock : Prop :=
  ∀ (bm : BsReg) (nr : BitVec 8) (s : State),
    decode (word 0x32 0 bm nr.toNat 0) = .ok (.b2scomp bm nr) ∧
    (s.hv = false ∨ s.bv[bm] = false → exec (.b2scomp bm nr) s = .next (failed .argumentNull s)) ∧
    (s.hv = true → s.bv[bm] = true →
      ∃ (v : Nat → Block) (h : Chain),
        exec (.b2scomp bm nr) s = .next { s with h := h, err := none } ∧
        (∀ (i : Nat) (hi : i < 8), (v 0)[i] = s.h[i]) ∧
        (v 0)[8] = 0x6A09E667#32 ∧ (v 0)[9] = 0xBB67AE85#32 ∧ (v 0)[10] = 0x3C6EF372#32 ∧ (v 0)[11] = 0xA54FF53A#32 ∧
        (v 0)[12] = 0x510E527F#32 ^^^ BitVec.ofNat 32 s.ctr.toNat ∧
        (v 0)[13] = 0x9B05688C#32 ^^^ BitVec.ofNat 32 (s.ctr.toNat / 2 ^ 32) ∧
        (v 0)[14] = 0x1F83D9AB#32 ^^^ BitVec.ofNat 32 s.aux.toNat ∧
        (v 0)[15] = 0x5BE0CD19#32 ^^^ BitVec.ofNat 32 (s.aux.toNat / 2 ^ 32) ∧
        (∀ r < nr.toNat,
          let m := s.b[bm]
          let q := sigmaRow r
          let g := fun (w : Block) (a b c d i : Fin 16) (j : Fin 16) => mixG w a b c d m[q[i]] m[q[j]]
          v (r + 1) = g (g (g (g (g (g (g (g (v r) 0 4 8 12 0 1) 1 5 9 13 2 3) 2 6 10 14 4 5) 3 7 11 15 6 7)
            0 5 10 15 8 9) 1 6 11 12 10 11) 2 7 8 13 12 13) 3 4 9 14 14 15) ∧
        ∀ (i : Nat) (hi : i < 8), h[i] = s.h[i] ^^^ (v nr.toNat)[i] ^^^ (v nr.toNat)[i + 8])

/-- R193: the mix on four distinct words and two message words, as its four sub-steps give it; every other word is unchanged. -/
def Obligations.MixOperations : Prop :=
  ∀ (v : Block) (a b c d : Fin 16) (x y : Word), a ≠ b → a ≠ c → a ≠ d → b ≠ c → b ≠ d → c ≠ d →
    let a1 := v[a] + v[b] + x
    let d1 := (v[d] ^^^ a1).rotateRight 16
    let c1 := v[c] + d1
    let b1 := (v[b] ^^^ c1).rotateRight 12
    let a2 := a1 + b1 + y
    let d2 := (d1 ^^^ a2).rotateRight 8
    let c2 := c1 + d2
    let b2 := (b1 ^^^ c2).rotateRight 7
    let q := mixG v a b c d x y
    q[a] = a2 ∧ q[b] = b2 ∧ q[c] = c2 ∧ q[d] = d2 ∧
      ∀ z : Fin 16, z ≠ a → z ≠ b → z ≠ c → z ≠ d → q[z] = v[z]

/-- R195, R198: the ten rows of the schedule, entry by entry; every row is a permutation of 0 to 15; rows are cycled: round `r` uses
row `r mod 10`. -/
def Obligations.ScheduleRowsArePermutations : Prop :=
  (List.range 10).map (fun r => (sigmaRow r).toList.map Fin.val) =
    [ [0, 1, 2, 3, 4, 5, 6, 7, 8, 9, 10, 11, 12, 13, 14, 15], [14, 10, 4, 8, 9, 15, 13, 6, 1, 12, 0, 2, 11, 7, 5, 3],
      [11, 8, 12, 0, 5, 2, 15, 13, 10, 14, 3, 6, 7, 1, 9, 4], [7, 9, 3, 1, 13, 12, 11, 14, 2, 6, 5, 10, 4, 0, 15, 8],
      [9, 0, 5, 7, 2, 4, 10, 15, 14, 1, 11, 12, 6, 8, 3, 13], [2, 12, 6, 10, 0, 11, 8, 3, 4, 13, 7, 5, 15, 14, 1, 9],
      [12, 5, 1, 15, 14, 13, 4, 10, 0, 7, 6, 3, 9, 2, 8, 11], [13, 11, 7, 14, 12, 1, 3, 9, 5, 0, 15, 4, 8, 6, 2, 10],
      [6, 15, 14, 9, 11, 3, 0, 8, 12, 2, 13, 7, 1, 4, 10, 5], [10, 2, 8, 4, 7, 6, 1, 5, 15, 11, 9, 14, 3, 12, 13, 0] ] ∧
  (∀ r : Nat, (sigmaRow r).toList.Perm (List.finRange 16)) ∧ ∀ r : Nat, sigmaRow (r + 10) = sigmaRow r

/-- R197, corner cases: with no rounds the old chaining value cancels out. -/
def Obligations.ZeroRoundCompressionForgetsChain : Prop :=
  ∀ (bm : BsReg) (s : State), s.hv = true → s.bv[bm] = true →
    exec (.b2scomp bm 0#8) s = .next
      { s with
        h := #v[0x6A09E667#32, 0xBB67AE85#32, 0x3C6EF372#32, 0xA54FF53A#32,
                0x510E527F#32 ^^^ BitVec.ofNat 32 s.ctr.toNat, 0x9B05688C#32 ^^^ BitVec.ofNat 32 (s.ctr.toNat / 2 ^ 32),
                0x1F83D9AB#32 ^^^ BitVec.ofNat 32 s.aux.toNat, 0x5BE0CD19#32 ^^^ BitVec.ofNat 32 (s.aux.toNat / 2 ^ 32)],
        err := none }

/-- R199: the result of `B2SCOMP` is a function of `H`, the message block, the round count, `CTR` and `AUX` alone. -/
def Obligations.B2scompDependsOnNothingElse : Prop :=
  ∀ (bm : BsReg) (nr : BitVec 8) (s s' : State), s.hv = true → s.bv[bm] = true → s'.hv = true → s'.bv[bm] = true →
    s.h = s'.h → s.b[bm] = s'.b[bm] → s.ctr = s'.ctr → s.aux = s'.aux →
    ∃ t t', exec (.b2scomp bm nr) s = .next t ∧ exec (.b2scomp bm nr) s' = .next t' ∧ t.h = t'.h

/-! ## Reset and what is behind a clear valid bit -/

/-- R36: after reset every register of the window is 0 and every valid bit is clear, `B` and `H` are unreadable (a command that would
read one fails with `ArgumentNull`), `ID` reads its constant, and reset does not change `MEM`. Stated of a reset between two moves
and of the state a run starts from. That a reset is a move of the host program, whose step answers a next state, is the model's
choice, log 7 (DESIGN CHOICE). -/
def Obligations.ResetLeavesSpecValues : Prop :=
  ∀ s : State, nextMove s .reset →
    ∃ t, step s = .next t ∧ t.mem = s.mem ∧
      ∀ u ∈ [t, State.reset],
        (∀ r : BsReg, u.bv[r] = false) ∧ u.hv = false ∧ (∀ i : Fin 16, u.win[i] = 0#32) ∧ u.ctr = 0#64 ∧ u.aux = 0#64 ∧
        u.cnt = 0#32 ∧ u.offa = 0#32 ∧ u.offb = 0#32 ∧
        (∀ k : BufReg, (u.buf[k]).base = 0#32 ∧ (u.buf[k]).len = 0#32 ∧ (u.buf[k]).v = false) ∧
        u.data = 0#32 ∧ u.err = none ∧ u.eq = false ∧ u.sticky = 0#5 ∧ u.statusWord = 0#32 ∧ readOffset u 0 = 0x44534331#32 ∧
        ∀ i : Instr, readsValid i → exec i u = .next (failed .argumentNull u)

/-- R21, R34, R36: what stands behind a clear valid bit is unreadable. Two machines that differ only there take steps with the same
outcome, which again differ only there. So no run can tell which values the model chose for them (log 4). -/
def Obligations.HiddenContentsAreUnobservable : Prop :=
  ∀ s t : State, s.visible = t.visible → onNext State.visible (step s) = onNext State.visible (step t)

/-- R21, R34: a valid bit that is set stays set through every step but a reset. -/
def Obligations.ValidBitsClearedOnlyByReset : Prop :=
  ∀ (s t : State) (m : HostMove), nextMove s m → m.isReset = false → step s = .next t →
    (∀ r : BsReg, s.bv[r] = true → t.bv[r] = true) ∧ (s.hv = true → t.hv = true)

/-- R261: a reset while a command runs leaves the registers at their reset values, and changes no byte of `MEM` but the ones the
command names as its destination, and none if the command would have failed. What the changed bytes are is open (log 8).
The model's choices here: that this reset is a move which keeps the host's fields (log 7, log 8), and that `B` and `H`, which the spec
leaves unspecified, hold the zeros of `State.reset` (log 4, DESIGN CHOICE). -/
def Obligations.ResetDuringCommandKeepsOtherBytes : Prop :=
  ∀ (s : State) (w : Word), nextMove s (.resetDuring w) →
    ∃ (m : Memory) (c : Nat),
      step s = .next { State.reset with
        mem := m, program := s.program, pc := s.pc + 1, results := s.results, freeCount := c } ∧
      (wordCause w s ≠ none → m = s.mem) ∧
      (s.Inv → ∀ x, (∀ i a n, decode w = .ok i → stored i s a n → x < a ∨ a + n ≤ x) → m.readByte x = s.mem.readByte x)

/-! ## The register window -/

/-- R27: the fields of `STATUS` as the host reads it. -/
def Obligations.StatusFieldsRead : Prop :=
  ∀ s : State,
    bits s.statusWord 0 4 = (match s.err with | none => 0 | some e => code e) ∧
    bits s.statusWord 4 1 = s.eq.toNat ∧ bits s.statusWord 5 3 = 0 ∧
    bits s.statusWord 8 5 = s.sticky.toNat ∧ bits s.statusWord 13 3 = 0 ∧
    (∀ r : BsReg, bits s.statusWord (16 + r.val) 1 = (s.bv[r]).toNat) ∧
    bits s.statusWord 20 1 = s.hv.toNat ∧ bits s.statusWord 21 11 = 0

/-- R24, R91: every register stands at its own aligned offset inside the window. -/
def Obligations.WindowOffsetsNameOneRegister : Prop :=
  ∀ r : WindowReg, registerAt r.offset = some r ∧ r.offset % 4 = 0 ∧ r.offset + 4 ≤ 256 ∧
    ∀ q : WindowReg, q.offset = r.offset → q = r

/-- R24, R91: a read returns the register's value, 0 for `CMD` and for a reserved offset, and changes nothing of the CORE. That the
value read is appended to `State.results` is the model's choice, log 6 (DESIGN CHOICE), no rule of the spec. -/
def Obligations.WindowReadsReturnRegisters : Prop :=
  ∀ (s : State) (off : Nat) (v : Word), (off, v) ∈ windowValues s ∨ (reservedOffset off ∧ v = 0#32) →
    nextMove s (.rd .word off) → step s = .next { s with results := s.results ++ [v], pc := s.pc + 1 }

/-- R24, R27, R91: a write stores to an `RW` register, clears the sticky bits written as 1 at `STATUS`, and is ignored at `ID`,
`DATA` and a reserved offset; nothing else changes. -/
def Obligations.WindowWritesStoreRegisters : Prop :=
  ∀ (s u : State) (off : Nat) (w : Word), (off, u) ∈ windowEffects s w ∨ (reservedOffset off ∧ u = s) →
    nextMove s (.wr .word off w) → step s = .next { u with pc := s.pc + 1 }

/-- R91: no window transaction but a write to `CMD` (a read of any offset, `CMD` among them, and a write of any other offset) changes
`ERR`, `EQ`, `DATA`, a BlockState register, `H` or `MEM`. -/
def Obligations.OnlyCommandsChangeResults : Prop :=
  ∀ (s t : State) (width : Width) (off : Nat) (w : Word),
    nextMove s (.rd width off) ∨ (off ≠ 0x04 ∧ nextMove s (.wr width off w)) → step s = .next t →
    t.err = s.err ∧ t.eq = s.eq ∧ t.data = s.data ∧ t.b = s.b ∧ t.bv = s.bv ∧ t.h = s.h ∧ t.hv = s.hv ∧ t.mem = s.mem

/-- R90: a transaction that is not 32 bits wide, not aligned, or outside the window is refused, by name. That the
names are tried in that order, and that the refusal comes when the move is reached, are the model's choice, log 5 (DESIGN CHOICE). -/
def Obligations.ForeignTransactionsAreRefused : Prop :=
  ∀ (s : State) (width : Width) (off : Nat) (w : Word), nextMove s (.rd width off) ∨ nextMove s (.wr width off w) →
    (width ≠ .word → step s = .refused .transactionWidth) ∧
    (width = .word → off % 4 ≠ 0 → step s = .refused .transactionUnaligned) ∧
    (width = .word → off % 4 = 0 → 0xFC < off → step s = .refused .transactionOutsideWindow) ∧
    (width = .word → off % 4 = 0 → off ≤ 0xFC → ∃ t, step s = .next t)

/-- R71, R74: a byte the host stored is what its next load of that address returns, and a load of any other address returns what it
would have returned before; neither changes a register of the CORE. That an access is one byte, and that a loaded byte is appended to
`State.results`, zero-extended, are the model's choices, log 18 and log 6 (DESIGN CHOICE). -/
def Obligations.HostLoadsSeeHostStores : Prop :=
  ∀ (s : State) (a x : Address) (v : Byte), s.Inv → nextMove s (.store a v) → s.program[s.pc + 1]? = some (.load x) →
    ∃ m : Memory,
      step s = .next { s with mem := m, pc := s.pc + 1 } ∧
      step { s with mem := m, pc := s.pc + 1 } = .next
        { s with
          mem := m, pc := s.pc + 2,
          results := s.results ++ [BitVec.ofNat 32 (if x = a then v else s.mem.readByte x.toNat).toNat] }
end

