-- ==== Sys2Proof/Laws/Decode.lean ====
section
/-! SUPPORT. Decode: the rows of the opcode map exclude each other (R95), and what an accepted word is. -/

namespace Sys2Proof

/-- Two rows differ in a bit that both masks test, so that no word matches both. -/
def OpRow.excludes (r q : OpRow) : Bool := (r.pattern ^^^ q.pattern) &&& (r.mask &&& q.mask) != 0#32

/-- R95: "The twelve (match, mask) pairs are pairwise exclusive". -/
theorem opcodeMap_exclusive : opcodeMap.Pairwise (fun r q => r.excludes q = true) := by decide

/-- A decoded word is accepted by a row of the map, which built the command. -/
theorem decode_ok_row {w : Word} {i : Instr} (h : decode w = .ok i) : ∃ r ∈ opcodeMap, r.accepts w = true ∧ i = r.build w := by
  unfold decode at h
  cases hf : opcodeMap.find? (·.accepts w) with
  | none => simp [hf] at h
  | some r =>
      refine ⟨r, List.mem_of_find?_eq_some hf, by simpa using List.find?_some hf, ?_⟩
      simpa [hf] using h.symm

/-- A word is illegal exactly when no row accepts it (R97). -/
theorem decode_error_iff {w : Word} : (∃ e, decode w = .error e) ↔ ∀ r ∈ opcodeMap, r.accepts w = false := by
  unfold decode
  cases hf : opcodeMap.find? (·.accepts w) with
  | none => simpa using hf
  | some r =>
      have hr := List.find?_some hf
      have hm := List.mem_of_find?_eq_some hf
      constructor
      · rintro ⟨e, he⟩
        cases he
      · intro h
        simp [h r hm] at hr

end Sys2Proof
end

