-- ==== Sys2Proof/Laws/State.lean ====
section
/-! SUPPORT. One lemma per field per state update, so that no proof unfolds a record update. -/

namespace Sys2Proof.Machine

variable (s : State)

@[simp] theorem State.writeBlock_b (r : BsReg) (w : Block) : (s.writeBlock r w).b = s.b.set r w := rfl
@[simp] theorem State.writeBlock_bv (r : BsReg) (w : Block) : (s.writeBlock r w).bv = s.bv.set r true := rfl
@[simp] theorem State.writeBlock_h (r : BsReg) (w : Block) : (s.writeBlock r w).h = s.h := rfl
@[simp] theorem State.writeBlock_hv (r : BsReg) (w : Block) : (s.writeBlock r w).hv = s.hv := rfl
@[simp] theorem State.writeBlock_win (r : BsReg) (w : Block) : (s.writeBlock r w).win = s.win := rfl
@[simp] theorem State.writeBlock_ctr (r : BsReg) (w : Block) : (s.writeBlock r w).ctr = s.ctr := rfl
@[simp] theorem State.writeBlock_aux (r : BsReg) (w : Block) : (s.writeBlock r w).aux = s.aux := rfl
@[simp] theorem State.writeBlock_cnt (r : BsReg) (w : Block) : (s.writeBlock r w).cnt = s.cnt := rfl
@[simp] theorem State.writeBlock_offa (r : BsReg) (w : Block) : (s.writeBlock r w).offa = s.offa := rfl
@[simp] theorem State.writeBlock_offb (r : BsReg) (w : Block) : (s.writeBlock r w).offb = s.offb := rfl
@[simp] theorem State.writeBlock_buf (r : BsReg) (w : Block) : (s.writeBlock r w).buf = s.buf := rfl
@[simp] theorem State.writeBlock_data (r : BsReg) (w : Block) : (s.writeBlock r w).data = s.data := rfl
@[simp] theorem State.writeBlock_err (r : BsReg) (w : Block) : (s.writeBlock r w).err = s.err := rfl
@[simp] theorem State.writeBlock_eq (r : BsReg) (w : Block) : (s.writeBlock r w).eq = s.eq := rfl
@[simp] theorem State.writeBlock_sticky (r : BsReg) (w : Block) : (s.writeBlock r w).sticky = s.sticky := rfl
@[simp] theorem State.writeBlock_mem (r : BsReg) (w : Block) : (s.writeBlock r w).mem = s.mem := rfl
@[simp] theorem State.writeBlock_program (r : BsReg) (w : Block) : (s.writeBlock r w).program = s.program := rfl
@[simp] theorem State.writeBlock_pc (r : BsReg) (w : Block) : (s.writeBlock r w).pc = s.pc := rfl
@[simp] theorem State.writeBlock_results (r : BsReg) (w : Block) : (s.writeBlock r w).results = s.results := rfl
@[simp] theorem State.writeBlock_freeCount (r : BsReg) (w : Block) : (s.writeBlock r w).freeCount = s.freeCount := rfl

@[simp] theorem State.writeChain_b (w : Chain) : (s.writeChain w).b = s.b := rfl
@[simp] theorem State.writeChain_bv (w : Chain) : (s.writeChain w).bv = s.bv := rfl
@[simp] theorem State.writeChain_h (w : Chain) : (s.writeChain w).h = w := rfl
@[simp] theorem State.writeChain_hv (w : Chain) : (s.writeChain w).hv = true := rfl
@[simp] theorem State.writeChain_win (w : Chain) : (s.writeChain w).win = s.win := rfl
@[simp] theorem State.writeChain_ctr (w : Chain) : (s.writeChain w).ctr = s.ctr := rfl
@[simp] theorem State.writeChain_aux (w : Chain) : (s.writeChain w).aux = s.aux := rfl
@[simp] theorem State.writeChain_cnt (w : Chain) : (s.writeChain w).cnt = s.cnt := rfl
@[simp] theorem State.writeChain_offa (w : Chain) : (s.writeChain w).offa = s.offa := rfl
@[simp] theorem State.writeChain_offb (w : Chain) : (s.writeChain w).offb = s.offb := rfl
@[simp] theorem State.writeChain_buf (w : Chain) : (s.writeChain w).buf = s.buf := rfl
@[simp] theorem State.writeChain_data (w : Chain) : (s.writeChain w).data = s.data := rfl
@[simp] theorem State.writeChain_err (w : Chain) : (s.writeChain w).err = s.err := rfl
@[simp] theorem State.writeChain_eq (w : Chain) : (s.writeChain w).eq = s.eq := rfl
@[simp] theorem State.writeChain_sticky (w : Chain) : (s.writeChain w).sticky = s.sticky := rfl
@[simp] theorem State.writeChain_mem (w : Chain) : (s.writeChain w).mem = s.mem := rfl
@[simp] theorem State.writeChain_program (w : Chain) : (s.writeChain w).program = s.program := rfl
@[simp] theorem State.writeChain_pc (w : Chain) : (s.writeChain w).pc = s.pc := rfl
@[simp] theorem State.writeChain_results (w : Chain) : (s.writeChain w).results = s.results := rfl
@[simp] theorem State.writeChain_freeCount (w : Chain) : (s.writeChain w).freeCount = s.freeCount := rfl

@[simp] theorem State.writeData_b (w : Word) : (s.writeData w).b = s.b := rfl
@[simp] theorem State.writeData_bv (w : Word) : (s.writeData w).bv = s.bv := rfl
@[simp] theorem State.writeData_h (w : Word) : (s.writeData w).h = s.h := rfl
@[simp] theorem State.writeData_hv (w : Word) : (s.writeData w).hv = s.hv := rfl
@[simp] theorem State.writeData_win (w : Word) : (s.writeData w).win = s.win := rfl
@[simp] theorem State.writeData_ctr (w : Word) : (s.writeData w).ctr = s.ctr := rfl
@[simp] theorem State.writeData_aux (w : Word) : (s.writeData w).aux = s.aux := rfl
@[simp] theorem State.writeData_cnt (w : Word) : (s.writeData w).cnt = s.cnt := rfl
@[simp] theorem State.writeData_offa (w : Word) : (s.writeData w).offa = s.offa := rfl
@[simp] theorem State.writeData_offb (w : Word) : (s.writeData w).offb = s.offb := rfl
@[simp] theorem State.writeData_buf (w : Word) : (s.writeData w).buf = s.buf := rfl
@[simp] theorem State.writeData_data (w : Word) : (s.writeData w).data = w := rfl
@[simp] theorem State.writeData_err (w : Word) : (s.writeData w).err = s.err := rfl
@[simp] theorem State.writeData_eq (w : Word) : (s.writeData w).eq = s.eq := rfl
@[simp] theorem State.writeData_sticky (w : Word) : (s.writeData w).sticky = s.sticky := rfl
@[simp] theorem State.writeData_mem (w : Word) : (s.writeData w).mem = s.mem := rfl
@[simp] theorem State.writeData_program (w : Word) : (s.writeData w).program = s.program := rfl
@[simp] theorem State.writeData_pc (w : Word) : (s.writeData w).pc = s.pc := rfl
@[simp] theorem State.writeData_results (w : Word) : (s.writeData w).results = s.results := rfl
@[simp] theorem State.writeData_freeCount (w : Word) : (s.writeData w).freeCount = s.freeCount := rfl

@[simp] theorem State.writeMem_b (m : Memory) : (s.writeMem m).b = s.b := rfl
@[simp] theorem State.writeMem_bv (m : Memory) : (s.writeMem m).bv = s.bv := rfl
@[simp] theorem State.writeMem_h (m : Memory) : (s.writeMem m).h = s.h := rfl
@[simp] theorem State.writeMem_hv (m : Memory) : (s.writeMem m).hv = s.hv := rfl
@[simp] theorem State.writeMem_win (m : Memory) : (s.writeMem m).win = s.win := rfl
@[simp] theorem State.writeMem_ctr (m : Memory) : (s.writeMem m).ctr = s.ctr := rfl
@[simp] theorem State.writeMem_aux (m : Memory) : (s.writeMem m).aux = s.aux := rfl
@[simp] theorem State.writeMem_cnt (m : Memory) : (s.writeMem m).cnt = s.cnt := rfl
@[simp] theorem State.writeMem_offa (m : Memory) : (s.writeMem m).offa = s.offa := rfl
@[simp] theorem State.writeMem_offb (m : Memory) : (s.writeMem m).offb = s.offb := rfl
@[simp] theorem State.writeMem_buf (m : Memory) : (s.writeMem m).buf = s.buf := rfl
@[simp] theorem State.writeMem_data (m : Memory) : (s.writeMem m).data = s.data := rfl
@[simp] theorem State.writeMem_err (m : Memory) : (s.writeMem m).err = s.err := rfl
@[simp] theorem State.writeMem_eq (m : Memory) : (s.writeMem m).eq = s.eq := rfl
@[simp] theorem State.writeMem_sticky (m : Memory) : (s.writeMem m).sticky = s.sticky := rfl
@[simp] theorem State.writeMem_mem (m : Memory) : (s.writeMem m).mem = m := rfl
@[simp] theorem State.writeMem_program (m : Memory) : (s.writeMem m).program = s.program := rfl
@[simp] theorem State.writeMem_pc (m : Memory) : (s.writeMem m).pc = s.pc := rfl
@[simp] theorem State.writeMem_results (m : Memory) : (s.writeMem m).results = s.results := rfl
@[simp] theorem State.writeMem_freeCount (m : Memory) : (s.writeMem m).freeCount = s.freeCount := rfl

@[simp] theorem State.writeEq_b (e : Bool) : (s.writeEq e).b = s.b := rfl
@[simp] theorem State.writeEq_bv (e : Bool) : (s.writeEq e).bv = s.bv := rfl
@[simp] theorem State.writeEq_h (e : Bool) : (s.writeEq e).h = s.h := rfl
@[simp] theorem State.writeEq_hv (e : Bool) : (s.writeEq e).hv = s.hv := rfl
@[simp] theorem State.writeEq_win (e : Bool) : (s.writeEq e).win = s.win := rfl
@[simp] theorem State.writeEq_ctr (e : Bool) : (s.writeEq e).ctr = s.ctr := rfl
@[simp] theorem State.writeEq_aux (e : Bool) : (s.writeEq e).aux = s.aux := rfl
@[simp] theorem State.writeEq_cnt (e : Bool) : (s.writeEq e).cnt = s.cnt := rfl
@[simp] theorem State.writeEq_offa (e : Bool) : (s.writeEq e).offa = s.offa := rfl
@[simp] theorem State.writeEq_offb (e : Bool) : (s.writeEq e).offb = s.offb := rfl
@[simp] theorem State.writeEq_buf (e : Bool) : (s.writeEq e).buf = s.buf := rfl
@[simp] theorem State.writeEq_data (e : Bool) : (s.writeEq e).data = s.data := rfl
@[simp] theorem State.writeEq_err (e : Bool) : (s.writeEq e).err = s.err := rfl
@[simp] theorem State.writeEq_eq (e : Bool) : (s.writeEq e).eq = e := rfl
@[simp] theorem State.writeEq_sticky (e : Bool) : (s.writeEq e).sticky = s.sticky := rfl
@[simp] theorem State.writeEq_mem (e : Bool) : (s.writeEq e).mem = s.mem := rfl
@[simp] theorem State.writeEq_program (e : Bool) : (s.writeEq e).program = s.program := rfl
@[simp] theorem State.writeEq_pc (e : Bool) : (s.writeEq e).pc = s.pc := rfl
@[simp] theorem State.writeEq_results (e : Bool) : (s.writeEq e).results = s.results := rfl
@[simp] theorem State.writeEq_freeCount (e : Bool) : (s.writeEq e).freeCount = s.freeCount := rfl

@[simp] theorem State.raise_b (e : CmdError) : (s.raise e).b = s.b := rfl
@[simp] theorem State.raise_bv (e : CmdError) : (s.raise e).bv = s.bv := rfl
@[simp] theorem State.raise_h (e : CmdError) : (s.raise e).h = s.h := rfl
@[simp] theorem State.raise_hv (e : CmdError) : (s.raise e).hv = s.hv := rfl
@[simp] theorem State.raise_win (e : CmdError) : (s.raise e).win = s.win := rfl
@[simp] theorem State.raise_ctr (e : CmdError) : (s.raise e).ctr = s.ctr := rfl
@[simp] theorem State.raise_aux (e : CmdError) : (s.raise e).aux = s.aux := rfl
@[simp] theorem State.raise_cnt (e : CmdError) : (s.raise e).cnt = s.cnt := rfl
@[simp] theorem State.raise_offa (e : CmdError) : (s.raise e).offa = s.offa := rfl
@[simp] theorem State.raise_offb (e : CmdError) : (s.raise e).offb = s.offb := rfl
@[simp] theorem State.raise_buf (e : CmdError) : (s.raise e).buf = s.buf := rfl
@[simp] theorem State.raise_data (e : CmdError) : (s.raise e).data = s.data := rfl
@[simp] theorem State.raise_err (e : CmdError) : (s.raise e).err = some e := rfl
@[simp] theorem State.raise_eq (e : CmdError) : (s.raise e).eq = s.eq := rfl
@[simp] theorem State.raise_sticky (e : CmdError) : (s.raise e).sticky = s.sticky ||| e.stickyMask := rfl
@[simp] theorem State.raise_mem (e : CmdError) : (s.raise e).mem = s.mem := rfl
@[simp] theorem State.raise_program (e : CmdError) : (s.raise e).program = s.program := rfl
@[simp] theorem State.raise_pc (e : CmdError) : (s.raise e).pc = s.pc := rfl
@[simp] theorem State.raise_results (e : CmdError) : (s.raise e).results = s.results := rfl
@[simp] theorem State.raise_freeCount (e : CmdError) : (s.raise e).freeCount = s.freeCount := rfl

@[simp] theorem State.complete_b : (s.complete).b = s.b := rfl
@[simp] theorem State.complete_bv : (s.complete).bv = s.bv := rfl
@[simp] theorem State.complete_h : (s.complete).h = s.h := rfl
@[simp] theorem State.complete_hv : (s.complete).hv = s.hv := rfl
@[simp] theorem State.complete_win : (s.complete).win = s.win := rfl
@[simp] theorem State.complete_ctr : (s.complete).ctr = s.ctr := rfl
@[simp] theorem State.complete_aux : (s.complete).aux = s.aux := rfl
@[simp] theorem State.complete_cnt : (s.complete).cnt = s.cnt := rfl
@[simp] theorem State.complete_offa : (s.complete).offa = s.offa := rfl
@[simp] theorem State.complete_offb : (s.complete).offb = s.offb := rfl
@[simp] theorem State.complete_buf : (s.complete).buf = s.buf := rfl
@[simp] theorem State.complete_data : (s.complete).data = s.data := rfl
@[simp] theorem State.complete_err : (s.complete).err = none := rfl
@[simp] theorem State.complete_eq : (s.complete).eq = s.eq := rfl
@[simp] theorem State.complete_sticky : (s.complete).sticky = s.sticky := rfl
@[simp] theorem State.complete_mem : (s.complete).mem = s.mem := rfl
@[simp] theorem State.complete_program : (s.complete).program = s.program := rfl
@[simp] theorem State.complete_pc : (s.complete).pc = s.pc := rfl
@[simp] theorem State.complete_results : (s.complete).results = s.results := rfl
@[simp] theorem State.complete_freeCount : (s.complete).freeCount = s.freeCount := rfl

@[simp] theorem State.reply_b (w : Word) : (s.reply w).b = s.b := rfl
@[simp] theorem State.reply_bv (w : Word) : (s.reply w).bv = s.bv := rfl
@[simp] theorem State.reply_h (w : Word) : (s.reply w).h = s.h := rfl
@[simp] theorem State.reply_hv (w : Word) : (s.reply w).hv = s.hv := rfl
@[simp] theorem State.reply_win (w : Word) : (s.reply w).win = s.win := rfl
@[simp] theorem State.reply_ctr (w : Word) : (s.reply w).ctr = s.ctr := rfl
@[simp] theorem State.reply_aux (w : Word) : (s.reply w).aux = s.aux := rfl
@[simp] theorem State.reply_cnt (w : Word) : (s.reply w).cnt = s.cnt := rfl
@[simp] theorem State.reply_offa (w : Word) : (s.reply w).offa = s.offa := rfl
@[simp] theorem State.reply_offb (w : Word) : (s.reply w).offb = s.offb := rfl
@[simp] theorem State.reply_buf (w : Word) : (s.reply w).buf = s.buf := rfl
@[simp] theorem State.reply_data (w : Word) : (s.reply w).data = s.data := rfl
@[simp] theorem State.reply_err (w : Word) : (s.reply w).err = s.err := rfl
@[simp] theorem State.reply_eq (w : Word) : (s.reply w).eq = s.eq := rfl
@[simp] theorem State.reply_sticky (w : Word) : (s.reply w).sticky = s.sticky := rfl
@[simp] theorem State.reply_mem (w : Word) : (s.reply w).mem = s.mem := rfl
@[simp] theorem State.reply_program (w : Word) : (s.reply w).program = s.program := rfl
@[simp] theorem State.reply_pc (w : Word) : (s.reply w).pc = s.pc := rfl
@[simp] theorem State.reply_results (w : Word) : (s.reply w).results = s.results ++ [w] := rfl
@[simp] theorem State.reply_freeCount (w : Word) : (s.reply w).freeCount = s.freeCount := rfl

@[simp] theorem State.clearSticky_b (w : Word) : (s.clearSticky w).b = s.b := rfl
@[simp] theorem State.clearSticky_bv (w : Word) : (s.clearSticky w).bv = s.bv := rfl
@[simp] theorem State.clearSticky_h (w : Word) : (s.clearSticky w).h = s.h := rfl
@[simp] theorem State.clearSticky_hv (w : Word) : (s.clearSticky w).hv = s.hv := rfl
@[simp] theorem State.clearSticky_win (w : Word) : (s.clearSticky w).win = s.win := rfl
@[simp] theorem State.clearSticky_ctr (w : Word) : (s.clearSticky w).ctr = s.ctr := rfl
@[simp] theorem State.clearSticky_aux (w : Word) : (s.clearSticky w).aux = s.aux := rfl
@[simp] theorem State.clearSticky_cnt (w : Word) : (s.clearSticky w).cnt = s.cnt := rfl
@[simp] theorem State.clearSticky_offa (w : Word) : (s.clearSticky w).offa = s.offa := rfl
@[simp] theorem State.clearSticky_offb (w : Word) : (s.clearSticky w).offb = s.offb := rfl
@[simp] theorem State.clearSticky_buf (w : Word) : (s.clearSticky w).buf = s.buf := rfl
@[simp] theorem State.clearSticky_data (w : Word) : (s.clearSticky w).data = s.data := rfl
@[simp] theorem State.clearSticky_err (w : Word) : (s.clearSticky w).err = s.err := rfl
@[simp] theorem State.clearSticky_eq (w : Word) : (s.clearSticky w).eq = s.eq := rfl
@[simp] theorem State.clearSticky_sticky (w : Word) : (s.clearSticky w).sticky = s.sticky &&& ~~~(w.extractLsb' 8 5) := rfl
@[simp] theorem State.clearSticky_mem (w : Word) : (s.clearSticky w).mem = s.mem := rfl
@[simp] theorem State.clearSticky_program (w : Word) : (s.clearSticky w).program = s.program := rfl
@[simp] theorem State.clearSticky_pc (w : Word) : (s.clearSticky w).pc = s.pc := rfl
@[simp] theorem State.clearSticky_results (w : Word) : (s.clearSticky w).results = s.results := rfl
@[simp] theorem State.clearSticky_freeCount (w : Word) : (s.clearSticky w).freeCount = s.freeCount := rfl

@[simp] theorem State.writeBufv_b (w : Word) : (s.writeBufv w).b = s.b := rfl
@[simp] theorem State.writeBufv_bv (w : Word) : (s.writeBufv w).bv = s.bv := rfl
@[simp] theorem State.writeBufv_h (w : Word) : (s.writeBufv w).h = s.h := rfl
@[simp] theorem State.writeBufv_hv (w : Word) : (s.writeBufv w).hv = s.hv := rfl
@[simp] theorem State.writeBufv_win (w : Word) : (s.writeBufv w).win = s.win := rfl
@[simp] theorem State.writeBufv_ctr (w : Word) : (s.writeBufv w).ctr = s.ctr := rfl
@[simp] theorem State.writeBufv_aux (w : Word) : (s.writeBufv w).aux = s.aux := rfl
@[simp] theorem State.writeBufv_cnt (w : Word) : (s.writeBufv w).cnt = s.cnt := rfl
@[simp] theorem State.writeBufv_offa (w : Word) : (s.writeBufv w).offa = s.offa := rfl
@[simp] theorem State.writeBufv_offb (w : Word) : (s.writeBufv w).offb = s.offb := rfl
@[simp] theorem State.writeBufv_data (w : Word) : (s.writeBufv w).data = s.data := rfl
@[simp] theorem State.writeBufv_err (w : Word) : (s.writeBufv w).err = s.err := rfl
@[simp] theorem State.writeBufv_eq (w : Word) : (s.writeBufv w).eq = s.eq := rfl
@[simp] theorem State.writeBufv_sticky (w : Word) : (s.writeBufv w).sticky = s.sticky := rfl
@[simp] theorem State.writeBufv_mem (w : Word) : (s.writeBufv w).mem = s.mem := rfl
@[simp] theorem State.writeBufv_program (w : Word) : (s.writeBufv w).program = s.program := rfl
@[simp] theorem State.writeBufv_pc (w : Word) : (s.writeBufv w).pc = s.pc := rfl
@[simp] theorem State.writeBufv_results (w : Word) : (s.writeBufv w).results = s.results := rfl
@[simp] theorem State.writeBufv_freeCount (w : Word) : (s.writeBufv w).freeCount = s.freeCount := rfl

@[simp] theorem State.scramble_b (a n : Nat) : (s.scramble a n).b = s.b := rfl
@[simp] theorem State.scramble_bv (a n : Nat) : (s.scramble a n).bv = s.bv := rfl
@[simp] theorem State.scramble_h (a n : Nat) : (s.scramble a n).h = s.h := rfl
@[simp] theorem State.scramble_hv (a n : Nat) : (s.scramble a n).hv = s.hv := rfl
@[simp] theorem State.scramble_win (a n : Nat) : (s.scramble a n).win = s.win := rfl
@[simp] theorem State.scramble_ctr (a n : Nat) : (s.scramble a n).ctr = s.ctr := rfl
@[simp] theorem State.scramble_aux (a n : Nat) : (s.scramble a n).aux = s.aux := rfl
@[simp] theorem State.scramble_cnt (a n : Nat) : (s.scramble a n).cnt = s.cnt := rfl
@[simp] theorem State.scramble_offa (a n : Nat) : (s.scramble a n).offa = s.offa := rfl
@[simp] theorem State.scramble_offb (a n : Nat) : (s.scramble a n).offb = s.offb := rfl
@[simp] theorem State.scramble_buf (a n : Nat) : (s.scramble a n).buf = s.buf := rfl
@[simp] theorem State.scramble_data (a n : Nat) : (s.scramble a n).data = s.data := rfl
@[simp] theorem State.scramble_err (a n : Nat) : (s.scramble a n).err = s.err := rfl
@[simp] theorem State.scramble_eq (a n : Nat) : (s.scramble a n).eq = s.eq := rfl
@[simp] theorem State.scramble_sticky (a n : Nat) : (s.scramble a n).sticky = s.sticky := rfl
@[simp] theorem State.scramble_mem (a n : Nat) : (s.scramble a n).mem = s.mem.writeBytes a (freeBytes s.freeCount n) := rfl
@[simp] theorem State.scramble_program (a n : Nat) : (s.scramble a n).program = s.program := rfl
@[simp] theorem State.scramble_pc (a n : Nat) : (s.scramble a n).pc = s.pc := rfl
@[simp] theorem State.scramble_results (a n : Nat) : (s.scramble a n).results = s.results := rfl
@[simp] theorem State.scramble_freeCount (a n : Nat) : (s.scramble a n).freeCount = s.freeCount + n := rfl

@[simp] theorem State.resetRegisters_b : (s.resetRegisters).b = State.reset.b := rfl
@[simp] theorem State.resetRegisters_bv : (s.resetRegisters).bv = State.reset.bv := rfl
@[simp] theorem State.resetRegisters_h : (s.resetRegisters).h = State.reset.h := rfl
@[simp] theorem State.resetRegisters_hv : (s.resetRegisters).hv = State.reset.hv := rfl
@[simp] theorem State.resetRegisters_win : (s.resetRegisters).win = State.reset.win := rfl
@[simp] theorem State.resetRegisters_ctr : (s.resetRegisters).ctr = State.reset.ctr := rfl
@[simp] theorem State.resetRegisters_aux : (s.resetRegisters).aux = State.reset.aux := rfl
@[simp] theorem State.resetRegisters_cnt : (s.resetRegisters).cnt = State.reset.cnt := rfl
@[simp] theorem State.resetRegisters_offa : (s.resetRegisters).offa = State.reset.offa := rfl
@[simp] theorem State.resetRegisters_offb : (s.resetRegisters).offb = State.reset.offb := rfl
@[simp] theorem State.resetRegisters_buf : (s.resetRegisters).buf = State.reset.buf := rfl
@[simp] theorem State.resetRegisters_data : (s.resetRegisters).data = State.reset.data := rfl
@[simp] theorem State.resetRegisters_err : (s.resetRegisters).err = State.reset.err := rfl
@[simp] theorem State.resetRegisters_eq : (s.resetRegisters).eq = State.reset.eq := rfl
@[simp] theorem State.resetRegisters_sticky : (s.resetRegisters).sticky = State.reset.sticky := rfl
@[simp] theorem State.resetRegisters_mem : (s.resetRegisters).mem = s.mem := rfl
@[simp] theorem State.resetRegisters_program : (s.resetRegisters).program = s.program := rfl
@[simp] theorem State.resetRegisters_pc : (s.resetRegisters).pc = s.pc := rfl
@[simp] theorem State.resetRegisters_results : (s.resetRegisters).results = s.results := rfl
@[simp] theorem State.resetRegisters_freeCount : (s.resetRegisters).freeCount = s.freeCount := rfl

end Sys2Proof.Machine
end

