-- ==== Sys2Proof/Laws/Ops.lean ====
section
/-! SUPPORT. What each shared operation can do, said once: the byte laws of `MEM`, the canonical form, a command's two endings,
reset. -/

namespace Sys2Proof.Machine

/-! ## The canonical form -/

theorem Memory.wfFrom_mono {lo lo' : Nat} (h : lo' ≤ lo) : ∀ m : Memory, m.wfFrom lo = true → m.wfFrom lo' = true
  | [], _ => rfl
  | (k, v) :: rest, hm => by
      simp only [Memory.wfFrom, Bool.and_eq_true, decide_eq_true_eq] at hm ⊢
      exact ⟨⟨⟨by omega, hm.1.1.2⟩, hm.1.2⟩, hm.2⟩

/-- Below the least address of a canonical memory every byte is unlisted. -/
theorem Memory.readByte_below {lo a : Nat} (h : a < lo) : ∀ m : Memory, m.wfFrom lo = true → m.readByte a = Config.unlistedByte
  | [], _ => rfl
  | (k, v) :: rest, hm => by
      simp only [Memory.wfFrom, Bool.and_eq_true, decide_eq_true_eq] at hm
      have hk : a < k := by omega
      simp [Memory.readByte, hk, Nat.ne_of_lt hk]

theorem Memory.writeByte_wfFrom {lo a : Nat} (v : Byte) (hlo : lo ≤ a) (ha : a < Config.memSize) :
    ∀ m : Memory, m.wfFrom lo = true → (m.writeByte a v).wfFrom lo = true
  | [], _ => by
      by_cases hv : v = Config.unlistedByte <;> simp [Memory.writeByte, Memory.wfFrom, hv, hlo, ha]
  | (k, u) :: rest, hm => by
      have hm' := hm
      simp only [Memory.wfFrom, Bool.and_eq_true, decide_eq_true_eq] at hm'
      obtain ⟨⟨⟨hk, hkm⟩, hu⟩, hr⟩ := hm'
      by_cases h1 : a < k
      · by_cases hv : v = Config.unlistedByte
        · simpa [Memory.writeByte, h1, hv] using hm
        · simp [Memory.writeByte, h1, hv, Memory.wfFrom, hlo, ha, hkm, hu, hr]
      · by_cases h2 : a = k
        · subst h2
          by_cases hv : v = Config.unlistedByte
          · simpa [Memory.writeByte, hv] using Memory.wfFrom_mono (by omega) rest hr
          · simp [Memory.writeByte, hv, Memory.wfFrom, hk, ha, hr]
        · simpa [Memory.writeByte, h1, h2, Memory.wfFrom, hk, hkm, hu] using
            Memory.writeByte_wfFrom v (by omega) ha rest hr

/-- A byte write keeps the canonical form. -/
theorem Memory.writeByte_wf {m : Memory} {a : Nat} (v : Byte) (hm : m.wf = true) (ha : a < Config.memSize) :
    (m.writeByte a v).wf = true :=
  Memory.writeByte_wfFrom v (Nat.zero_le a) ha m hm

/-- A write of a list of bytes keeps the canonical form. -/
theorem Memory.writeBytes_wf : ∀ (vs : List Byte) {m : Memory} {a : Nat}, m.wf = true → a + vs.length ≤ Config.memSize →
    (m.writeBytes a vs).wf = true
  | [], _, _, hm, _ => hm
  | v :: vs, m, a, hm, ha => by
      simp only [List.length_cons] at ha
      exact Memory.writeBytes_wf vs (Memory.writeByte_wf v hm (by omega)) (by omega)

/-! ## Read after write, byte by byte -/

theorem Memory.readByte_writeByte_from {lo a : Nat} (v : Byte) (b : Nat) (hlo : lo ≤ a) :
    ∀ m : Memory, m.wfFrom lo = true → (m.writeByte a v).readByte b = if b = a then v else m.readByte b
  | [], _ => by
      by_cases hv : v = Config.unlistedByte
      · by_cases hb : b = a <;> simp [Memory.writeByte, Memory.readByte, hv, hb]
      · by_cases hb : b = a <;> simp [Memory.writeByte, Memory.readByte, hv, hb]
  | (k, u) :: rest, hm => by
      have hm' := hm
      simp only [Memory.wfFrom, Bool.and_eq_true, decide_eq_true_eq] at hm'
      obtain ⟨⟨⟨hk, hkm⟩, hu⟩, hr⟩ := hm'
      by_cases h1 : a < k
      · by_cases hv : v = Config.unlistedByte
        · by_cases hb : b = a
          · subst hb
            simp [Memory.writeByte, h1, hv, Memory.readByte, Nat.ne_of_lt h1]
          · simp [Memory.writeByte, h1, hv, hb]
        · by_cases hb : b = a
          · simp [Memory.writeByte, h1, hv, hb, Memory.readByte]
          · by_cases hlt : b < a
            · have : b < k := by omega
              simp [Memory.writeByte, h1, hv, hb, Memory.readByte, hlt, this, Nat.ne_of_lt this]
            · simp [Memory.writeByte, h1, hv, hb, Memory.readByte, hlt]
      · by_cases h2 : a = k
        · subst h2
          by_cases hv : v = Config.unlistedByte
          · by_cases hb : b = a
            · subst hb
              simp [Memory.writeByte, hv, Memory.readByte_below (Nat.lt_succ_self b) rest hr]
            · by_cases hlt : b < a
              · simp [Memory.writeByte, hv, hb, Memory.readByte, hlt,
                  Memory.readByte_below (by omega : b < a + 1) rest hr]
              · simp [Memory.writeByte, hv, hb, Memory.readByte, hlt]
          · by_cases hb : b = a <;> simp [Memory.writeByte, hv, hb, Memory.readByte]
        · have ih := Memory.readByte_writeByte_from v b (by omega : k + 1 ≤ a) rest hr
          by_cases hbk : b = k
          · have : b ≠ a := by omega
            simp [Memory.writeByte, h1, h2, Memory.readByte, hbk, Ne.symm h2]
          · by_cases hlt : b < k
            · have : b ≠ a := by omega
              simp [Memory.writeByte, h1, h2, Memory.readByte, hbk, hlt, this]
            · simp [Memory.writeByte, h1, h2, Memory.readByte, hbk, hlt, ih]

/-- What a byte reads as after a byte write to a canonical memory. -/
theorem Memory.readByte_writeByte {m : Memory} (a : Nat) (v : Byte) (b : Nat) (hm : m.wf = true) :
    (m.writeByte a v).readByte b = if b = a then v else m.readByte b :=
  Memory.readByte_writeByte_from v b (Nat.zero_le a) m hm

@[simp] theorem Memory.readBytes_length (m : Memory) : ∀ n a, (m.readBytes a n).length = n
  | 0, _ => rfl
  | n + 1, a => by simp [Memory.readBytes, Memory.readBytes_length m n (a + 1)]

@[simp] theorem freeBytes_length : ∀ n start, (freeBytes start n).length = n
  | 0, _ => rfl
  | n + 1, start => by simp [freeBytes, freeBytes_length n (start + 1)]

@[simp] theorem wordImage_length (w : Word) : (wordImage w).length = 4 := rfl

/-- A BlockState image has 64 bytes (R124). -/
@[simp] theorem blockImage_length (w : Block) : (blockImage w).length = 64 := by
  simp [blockImage]

/-! ## A command's endings -/

/-- Everything a checked command can do: the first failing check is raised, or the effect completes. -/
theorem runChecked_cases {checks : List (Bool × CmdError)} {s effect t : State} (h : runChecked checks s effect = .next t) :
    (∃ e, firstFailure checks = some e ∧ t = s.raise e) ∨ (firstFailure checks = none ∧ t = effect.complete) := by
  unfold runChecked at h
  cases hf : firstFailure checks with
  | none => exact .inr ⟨rfl, by simpa [hf] using h.symm⟩
  | some e => exact .inl ⟨e, rfl, by simpa [hf] using h.symm⟩

/-- A checked command always answers a next state. -/
theorem runChecked_next (checks : List (Bool × CmdError)) (s effect : State) : ∃ t, runChecked checks s effect = .next t := by
  unfold runChecked
  split <;> exact ⟨_, rfl⟩

@[simp] theorem runChecked_nil (s effect : State) : runChecked [] s effect = .next effect.complete := rfl

@[simp] theorem firstFailure_nil : firstFailure [] = none := rfl

@[simp] theorem firstFailure_cons (failed : Bool) (e : CmdError) (rest : List (Bool × CmdError)) :
    firstFailure ((failed, e) :: rest) = if failed then some e else firstFailure rest := rfl

/-- No check fails exactly when each one listed is false. -/
theorem firstFailure_eq_none_iff : ∀ checks : List (Bool × CmdError),
    firstFailure checks = none ↔ ∀ c ∈ checks, c.1 = false
  | [] => by simp
  | (failed, e) :: rest => by
      cases failed <;> simp [firstFailure_eq_none_iff rest]

/-! ## An admitted range lies in `MEM` -/

theorem Descriptor.end_le_of_checks {d : Descriptor} {off : Word} {n : Nat} (h1 : d.illFormed = false)
    (h2 : d.outOfRange off.toNat n = false) : d.start off + n ≤ Config.memSize := by
  simp only [Descriptor.illFormed, Descriptor.outOfRange, Descriptor.start, decide_eq_false_iff_not] at *
  omega

end Sys2Proof.Machine
end

