-- ==== Sys2Proof/Laws/Operands.lean ====
section
/-! SUPPORT. What the operand forms and the flag computation come to: each check of R232 as a fact about numbers, the state's
views of `CTR` and `AUX`, and `EQ`. -/

namespace Sys2Proof.Machine

@[simp] theorem Descriptor.illFormed_eq_false (d : Descriptor) :
    d.illFormed = false ↔ d.base.toNat + d.len.toNat ≤ Config.memSize := by
  simp [Descriptor.illFormed]

@[simp] theorem Descriptor.outOfRange_eq_false (d : Descriptor) (off n : Nat) :
    d.outOfRange off n = false ↔ off + n ≤ d.len.toNat := by
  simp [Descriptor.outOfRange]

theorem bsldbChecks_pass {k : BufReg} {s : State} :
    firstFailure (bsldbChecks k s) = none ↔
      (s.buf[k]).v = true ∧ (s.buf[k]).base.toNat + (s.buf[k]).len.toNat ≤ Config.memSize ∧ (s.buf[k]).len.toNat = 64 := by
  rw [firstFailure_eq_none_iff]
  simp [bsldbChecks]

theorem bsstbChecks_pass {bs : BsReg} {k : BufReg} {s : State} :
    firstFailure (bsstbChecks bs k s) = none ↔
      (s.bv[bs] = true ∧ (s.buf[k]).v = true) ∧ (s.buf[k]).base.toNat + (s.buf[k]).len.toNat ≤ Config.memSize ∧
        s.offa.toNat + 64 ≤ (s.buf[k]).len.toNat := by
  rw [firstFailure_eq_none_iff]
  simp [bsstbChecks]

theorem vectorChecks_pass {ka kb : BufReg} {s : State} :
    firstFailure (vectorChecks ka kb s) = none ↔
      ((s.buf[ka]).v = true ∧ (s.buf[kb]).v = true) ∧
      ((s.buf[ka]).base.toNat + (s.buf[ka]).len.toNat ≤ Config.memSize ∧
        (s.buf[kb]).base.toNat + (s.buf[kb]).len.toNat ≤ Config.memSize) ∧
      (s.offa.toNat + s.count ≤ (s.buf[ka]).len.toNat ∧ s.offb.toNat + s.count ≤ (s.buf[kb]).len.toNat) := by
  rw [firstFailure_eq_none_iff]
  simp [vectorChecks]

@[simp] theorem lo32_pair64 (hi lo : Word) : lo32 (pair64 hi lo) = lo := by
  ext i h
  simp only [lo32, pair64, BitVec.getElem_extractLsb', Nat.zero_add]
  exact BitVec.getLsbD_append.trans (by simp [h])

@[simp] theorem hi32_pair64 (hi lo : Word) : hi32 (pair64 hi lo) = hi := by
  ext i h
  simp only [hi32, pair64, BitVec.getElem_extractLsb']
  exact BitVec.getLsbD_append.trans (by simp [h])

/-- With both buffers non-empty `EQ` is the comparison of the bytes, whether or not the ranges coincide (R146: "it gives the value
step 3 would give"). -/
theorem equalsResult_nonempty {m : Memory} {lenA lenB : Word} (ha : lenA.toNat ≠ 0) (hb : lenB.toNat ≠ 0) (sa sb n : Nat) :
    equalsResult m lenA lenB sa sb n = (m.readBytes sa n == m.readBytes sb n) := by
  by_cases h : sa = sb <;> simp [equalsResult, ha, hb, coincide, h]

end Sys2Proof.Machine
end

