-- ==== Sys2Proof/Laws/Step.lean ====
section
/-! SUPPORT. What a step can do, said once: the next move's outcome with `pc` advanced, or the end of the host program. -/

namespace Sys2Proof.Machine

/-- Everything a step that answers a next state did. -/
theorem step_next_cases {s t : State} (h : step s = .next t) :
    ∃ m u, fetch s = some m ∧ runMove m s = .next u ∧ t = { u with pc := u.pc + 1 } := by
  unfold step at h
  cases hf : fetch s with
  | none => simp [hf] at h
  | some m =>
      cases hr : runMove m s with
      | next u => exact ⟨m, u, rfl, hr, by simpa [hf, hr, advance] using h.symm⟩
      | fault r => simp [hf, hr, advance] at h
      | refused r => simp [hf, hr, advance] at h

/-- Placing a move at index `n` makes it the move at `n`. -/
theorem placeMove_getElem? (m : HostMove) : ∀ (n : Nat) (l : List HostMove), (placeMove m n l)[n]? = some m
  | 0, [] => rfl
  | 0, _ :: _ => rfl
  | n + 1, [] => by simpa [placeMove] using placeMove_getElem? m n []
  | n + 1, _ :: rest => by simpa [placeMove] using placeMove_getElem? m n rest

/-- `withFetchWord` makes the command word the next move. -/
theorem fetch_withFetchWord (s : State) (nbits w : Nat) :
    fetch (s.withFetchWord nbits w) = some (.wr .word 4 (BitVec.ofNat 32 (w % 2 ^ nbits))) :=
  placeMove_getElem? _ _ _

end Sys2Proof.Machine
end

