-- ==== Sys2Proof/Laws/Exec.lean ====
section
/-! SUPPORT. Every command has one shape (R92): its checks of R232, then its effect. Proofs over all commands cite this and never
unfold a meaning twice. -/

namespace Sys2Proof.Machine

/-- What a command does once its checks have passed, `ERR` apart. -/
def commandEffect (i : Instr) (s : State) : State :=
  match i with
  | .bsldw bd => s.writeBlock bd s.win
  | .bsldb bd k => s.writeBlock bd (s.mem.readBlock (s.buf[k]).base.toNat)
  | .bsrdw bs idx => s.writeData (blockWord s.b[bs] idx)
  | .bsstb bs k => s.writeMem (s.mem.writeBytes ((s.buf[k]).start s.offa) (blockImage s.b[bs]))
  | .vcopy ka kb => s.writeMem (s.mem.copyBytes (s.startA ka) (s.startB kb) s.count)
  | .veq ka kb => s.writeEq (equalsResult s.mem (s.buf[ka]).len (s.buf[kb]).len (s.startA ka) (s.startB kb) s.count)
  | .vxor ka kb =>
    if coincide (s.startA ka) (s.startB kb) then s else s.writeMem (s.mem.xorBytes (s.startA ka) (s.startB kb) s.count)
  | .chacha bd bs ndr ff => s.writeBlock bd (chachaBlock s.b[bs] s.ctr s.aux ndr ff)
  | .ctrinc => { s with ctr := s.ctr + 1#64 }
  | .hldw => s.writeChain (Vector.ofFn fun i => s.win[i.val])
  | .hrdw idx => s.writeData (chainWord s.h idx)
  | .b2scomp bm nr => s.writeChain (compress s.h s.b[bm] nr s.ctr s.aux)

/-- A command is its checks and its effect. -/
theorem exec_eq_runChecked (i : Instr) (s : State) : exec i s = runChecked (commandChecks i s) s (commandEffect i s) := by
  cases i <;> rfl

/-- Everything a command can do: raise the first failing check's error, or have its effect and complete. -/
theorem exec_next_cases {i : Instr} {s t : State} (h : exec i s = .next t) :
    (∃ e, firstFailure (commandChecks i s) = some e ∧ t = s.raise e) ∨
    (firstFailure (commandChecks i s) = none ∧ t = (commandEffect i s).complete) :=
  runChecked_cases (exec_eq_runChecked i s ▸ h)

/-- A command whose checks pass has its effect and completes. -/
theorem exec_of_pass {i : Instr} {s : State} (h : firstFailure (commandChecks i s) = none) :
    exec i s = .next (commandEffect i s).complete := by
  rw [exec_eq_runChecked, runChecked, h]

/-- A command with a failing check raises the first one's error. -/
theorem exec_of_fail {i : Instr} {s : State} {e : CmdError} (h : firstFailure (commandChecks i s) = some e) :
    exec i s = .next (s.raise e) := by
  rw [exec_eq_runChecked, runChecked, h]

/-- A transaction is refused exactly when the move is not well formed (R90). -/
theorem transactionRefusal_eq_none_iff {width : Width} {off : Nat} :
    transactionRefusal width off = none ↔ (width.isWord && offsetAligned off && offsetInWindow off) = true := by
  unfold transactionRefusal
  cases width.isWord <;> cases offsetAligned off <;> cases offsetInWindow off <;> simp

/-- Everything a move that answers a next state can be: a read, a write that is no command, a command, or a move that is no window
transaction. -/
theorem runMove_next_cases {m : HostMove} {s t : State} (h : runMove m s = .next t) :
    (∃ off, m = .rd .word off ∧ off % 4 = 0 ∧ off ≤ 0xFC ∧ t = s.reply (readOffset s off)) ∨
    (∃ off v, m = .wr .word off v ∧ off % 4 = 0 ∧ off ≤ 0xFC ∧ off ≠ 4 ∧ t = writeOffset s off v) ∨
    (∃ w, m = .wr .word 4 w ∧ runCommand w s = .next t) ∨
    (∃ a, m = .load a ∧ t = s.reply ((s.mem.readByte a.toNat).setWidth 32)) ∨
    (∃ a v, m = .store a v ∧ t = s.writeMem (s.mem.writeByte a.toNat v)) ∨
    (m = .reset ∧ t = s.resetRegisters) ∨
    (∃ w, m = .resetDuring w ∧ t = (s.abandonStores w).resetRegisters) := by
  have key : ∀ (width : Width) (off : Nat), transactionRefusal width off = none → width = .word ∧ off % 4 = 0 ∧ off ≤ 0xFC := by
    intro width off hn
    have hw := transactionRefusal_eq_none_iff.1 hn
    simp only [Bool.and_eq_true] at hw
    obtain ⟨⟨h1, h2⟩, h3⟩ := hw
    have h4 : off % 4 = 0 := by simpa [offsetAligned] using h2
    have h5 : off + 4 ≤ 256 := by simpa [offsetInWindow, Config.windowSize] using h3
    refine ⟨?_, h4, by omega⟩
    cases width <;> simp [Width.isWord] at h1 ⊢
  cases m with
  | rd width off =>
      cases hr : transactionRefusal width off with
      | some r => simp [runMove, hostAction, hr] at h
      | none =>
          obtain ⟨rfl, h4, hle⟩ := key width off hr
          exact .inl ⟨off, rfl, h4, hle, by simpa [runMove, hostAction, hr] using h.symm⟩
  | wr width off v =>
      cases hr : transactionRefusal width off with
      | some r => simp [runMove, hostAction, hr] at h
      | none =>
          obtain ⟨rfl, h4, hle⟩ := key width off hr
          by_cases ho : off = 4
          · subst ho
            exact .inr (.inr (.inl ⟨v, rfl, by simpa [runMove, hostAction, hr, WindowReg.offset] using h⟩))
          · exact .inr (.inl ⟨off, v, rfl, h4, hle, ho, by simpa [runMove, hostAction, hr, WindowReg.offset, ho] using h.symm⟩)
  | load a => cases h; exact .inr (.inr (.inr (.inl ⟨a, rfl, rfl⟩)))
  | store a v => cases h; exact .inr (.inr (.inr (.inr (.inl ⟨a, v, rfl, rfl⟩))))
  | reset => cases h; exact .inr (.inr (.inr (.inr (.inr (.inl ⟨rfl, rfl⟩)))))
  | resetDuring w => cases h; exact .inr (.inr (.inr (.inr (.inr (.inr ⟨w, rfl, rfl⟩)))))

/-- What reset during a command leaves of the state: the same, or the destination's bytes free (R261). -/
theorem abandonStores_cases (s : State) (w : Word) :
    s.abandonStores w = s ∨
    ∃ i a n, decode w = .ok i ∧ firstFailure (commandChecks i s) = none ∧ destinationRange i s = some (a, n) ∧
      s.abandonStores w = s.scramble a n := by
  unfold State.abandonStores
  cases hd : decode w with
  | error e => exact .inl rfl
  | ok i =>
      dsimp only
      cases hf : firstFailure (commandChecks i s) with
      | some e => exact .inl rfl
      | none =>
          cases hr : destinationRange i s with
          | none => exact .inl rfl
          | some p => exact .inr ⟨i, p.1, p.2, rfl, hf, hr, rfl⟩

end Sys2Proof.Machine
end

