-- ==== Sys2Proof/Machine/HostSequences.lean ====
section
/-! DEFINITION. The software side of the spec, as lists of host moves: the assembler notation and pseudo-instructions of R101 and
R102, and the host sequences of 44_host_sequences.md (R210 to R220). Nothing here is hardware (R210): `step` does not call it. The
addresses and descriptor numbers the spec leaves to the host are arguments (log 17). -/

namespace Sys2Proof.Machine

/-! ## Assembler (R101) and pseudo-instructions (R102) -/

/-- `wr REG, value`. -/
def wrReg (r : WindowReg) (v : Word) : HostMove := .wr .word r.offset v

/-- `rd REG`. -/
def rdReg (r : WindowReg) : HostMove := .rd .word r.offset

/-- A command line of the assembler: `wr CMD` of the command's word. -/
def issue (i : Instr) : HostMove := wrReg .cmd (encode i)

/-- `setctr v`. -/
def setCtr (v : DWord) : List HostMove := [wrReg .ctrLo (lo32 v), wrReg .ctrHi (hi32 v)]

/-- `setaux v`. -/
def setAux (v : DWord) : List HostMove := [wrReg .auxLo (lo32 v), wrReg .auxHi (hi32 v)]

/-- `setbuf k, base, len`; it does not touch `BUFV`. -/
def setBuf (k : BufReg) (base len : Word) : List HostMove := [wrReg (.bufBase k) base, wrReg (.bufLen k) len]

/-- `setwin w0, ..., w15`: fewer words given are fewer writes, from `WIN0` up. -/
def setWin (ws : List Word) : List HostMove := List.zipWith (fun i w => wrReg (.win i) w) (List.finRange 16) ws

/-- `clrerr`: clears all five `STICKY` bits. -/
def clrErr : List HostMove := [wrReg .status 0x00001F00#32]

/-! ## Bytes and words -/

/-- Bytes to words, four at a time, little-endian (R212); a rest of fewer than four bytes gives no word. -/
def bytesToWords : List Byte → List Word
  | b0 :: b1 :: b2 :: b3 :: rest => le32 b0 b1 b2 b3 :: bytesToWords rest
  | _ => []

/-- The host writes bytes to `MEM` from address `a` up, one store a byte (R74). -/
def storeBytes (a : Address) (bs : List Byte) : List HostMove :=
  bs.mapIdx fun i v => .store (a + BitVec.ofNat 32 i) v

/-- The words `C0..C3` of "expand 32-byte k" (R170). -/
def chachaConstants : List Word := [0x61707865#32, 0x3320646E#32, 0x79622D32#32, 0x6B206574#32]

/-- The 64-bit value of eight bytes, low word first (R211, R217); other lengths are refused before they reach it. -/
def dwordOfBytes (bs : List Byte) : DWord :=
  pair64 ((bytesToWords bs).getD 1 0#32) ((bytesToWords bs).getD 0 0#32)

/-! ## StreamCipher (R211 to R215) -/

/-- The sixteen words of the cipher register (R211): a key that is not 32 bytes or a nonce that is not 8 is refused by the host
with `InvalidLength`, a software error that never reaches `STATUS` (R210). -/
def cipherRegister (key nonce : List Byte) (counter : DWord) : Except CmdError (List Word) :=
  if key.length ≠ 32 ∨ nonce.length ≠ 8 then .error .invalidLength
  else .ok (chachaConstants ++ bytesToWords key ++ [lo32 counter, hi32 counter] ++ bytesToWords nonce)

/-- Copy words 12 to 15 of the cipher register into `CTR` and `AUX` (R211). -/
def copyCounterNonce (register : List Word) : List HostMove :=
  setCtr (pair64 (register.getD 13 0#32) (register.getD 12 0#32))
    ++ setAux (pair64 (register.getD 15 0#32) (register.getD 14 0#32))

/-- Load the cipher register into `B[0]` with `BSLDW` from `WIN` (R211). -/
def loadCipher (register : List Word) : List HostMove :=
  setWin register ++ [issue (.bsldw 0)] ++ copyCounterNonce register

/-- The byte image of the cipher register, 64 bytes for its sixteen words (R211, R212, R124). -/
def registerImage (register : List Word) : List Byte := register.flatMap wordImage

/-- Load the cipher register into `B[0]` with `BSLDB` from its 64-byte image, which the host first writes at `a`; the present
descriptor `bufk` names those 64 bytes (R211). -/
def loadCipherImage (k : BufReg) (a : Address) (register : List Word) : List HostMove :=
  storeBytes a (registerImage register) ++ [issue (.bsldb 0 k)] ++ copyCounterNonce register

/-- One keystream block into the 64-byte scratch buffer `buf1` (R213). -/
def keystreamBlock : List HostMove :=
  [issue (.chacha 1 0 10#8 true), wrReg .offa 0#32, issue (.bsstb 1 1)]

/-- Block `j` of the stream transform over `len` bytes (R214). -/
def streamBlock (len j : Nat) : List HostMove :=
  keystreamBlock
    ++ [wrReg .cnt (BitVec.ofNat 32 (min 64 (len - 64 * j))), wrReg .offa (BitVec.ofNat 32 (64 * j)), wrReg .offb 0#32,
        issue (.vxor 0 1), issue .ctrinc]

/-- `ceil(len / 64)`. -/
def blockCount (len : Nat) : Nat := (len + 63) / 64

/-- The stream transform of `len` bytes of `buf0`, in place (R214). -/
def streamTransform (len : Nat) : List HostMove := (List.range (blockCount len)).flatMap (streamBlock len)

/-- The transform of `len` bytes from one buffer to another: `VCOPY` of the input `bufsrc` to the output `buf0`, then the same loop
on the output (R214). -/
def streamTransformFrom (src : BufReg) (len : Nat) : List HostMove :=
  [wrReg .cnt (BitVec.ofNat 32 len), wrReg .offa 0#32, wrReg .offb 0#32, issue (.vcopy 0 src)] ++ streamTransform len

/-- What the host knows of its cipher between two transforms (R215): the live counter, `CTR`, and whether the block of the last
counter value is used up. `CTR` alone cannot say so: it stays at 2^64 - 1. -/
structure CipherPosition where
  counter : DWord
  exhausted : Bool
  deriving DecidableEq, Repr

/-- What the host learns from `CTR` and `STATUS` after the last `ctrinc` of a transform: `Overflow` there means that the cipher is
exhausted, not that the transform failed (R215). -/
def CipherPosition.observe (ctr : DWord) (status : Word) : CipherPosition :=
  { counter := ctr, exhausted := status.extractLsb' 0 4 == CmdError.overflow.code }

/-- `len` bytes need a block the counter does not reach: a block past the last counter value, or any block of an exhausted cipher
(R215). -/
def CipherPosition.refuses (p : CipherPosition) (len : Nat) : Bool :=
  decide (p.counter.toNat + blockCount len > 2 ^ 64) || (p.exhausted && decide (0 < blockCount len))

/-- The position after a transform of `len` bytes that was not refused: one more for each block; at 2^64 exactly the counter stays at
2^64 - 1 and the cipher is exhausted (R214, R215). -/
def CipherPosition.next (p : CipherPosition) (len : Nat) : CipherPosition :=
  if p.counter.toNat + blockCount len = 2 ^ 64 then { counter := 0xFFFFFFFFFFFFFFFF#64, exhausted := true }
  else { p with counter := p.counter + BitVec.ofNat 64 (blockCount len) }

/-- R215: the host refuses with `Overflow`, before anything is transformed, or runs the loop `moves` (`streamTransform len`, or
`streamTransformFrom`) and goes on from the position after it. -/
def streamTransformChecked (p : CipherPosition) (len : Nat) (moves : List HostMove) :
    Except CmdError (List HostMove × CipherPosition) :=
  if p.refuses len then .error .overflow else .ok (moves, p.next len)

/-! ## Extended-nonce derivation (R217 to R219) -/

/-- The words of the permuted state that form the subkey (R217). -/
def subkeyIndices : List (BitVec 8) := [0, 1, 2, 3, 12, 13, 14, 15]

/-- The subkey derivation, with the eight subkey words read back through `DATA` (R217): only the first 16 of the 24 nonce bytes
enter. A key that is not 32 bytes or a nonce that is not 24 is refused with `InvalidLength`. -/
def subkeyDerivation (key nonce : List Byte) : Except CmdError (List HostMove) :=
  if key.length ≠ 32 ∨ nonce.length ≠ 24 then .error .invalidLength
  else .ok (setWin (chachaConstants ++ bytesToWords key) ++ [issue (.bsldw 0)]
    ++ setCtr (dwordOfBytes (nonce.take 8)) ++ setAux (dwordOfBytes ((nonce.drop 8).take 8))
    ++ [issue (.chacha 1 0 10#8 false)]
    ++ subkeyIndices.flatMap (fun idx => [issue (.bsrdw 1 idx), rdReg .data]))

/-- The inner cipher register (R218). The counter words are the host's random words, or zero when the open parameter
`XCHACHA_RANDOM_COUNTER` is false; the two nonce words come ready made, because the combining operator is stated nowhere (N14, U5:
free inputs), log 17. -/
def innerRegister (subkey : List Word) (rnd0 rnd1 nonce0 nonce1 : Word) (xchachaRandomCounter : Bool := true) : List Word :=
  chachaConstants ++ subkey ++ (if xchachaRandomCounter then [rnd0, rnd1] else [0#32, 0#32]) ++ [nonce0, nonce1]

/-- The public nonce: the original 24 bytes, then the inner nonce field's 8 (R219, C9). -/
def publicNonce (nonce : List Byte) (nonce0 nonce1 : Word) : List Byte := nonce ++ wordImage nonce0 ++ wordImage nonce1

/-! ## Blake2s hashing (R220) -/

/-- The starting chaining value: `IV` with word 0 XORed with the parameter word 0x01010020 (R220). -/
def blakeStart : List Word :=
  [0x6A09E667#32 ^^^ 0x01010020#32, 0xBB67AE85#32, 0x3C6EF372#32, 0xA54FF53A#32,
   0x510E527F#32, 0x9B05688C#32, 0x1F83D9AB#32, 0x5BE0CD19#32]

/-- The number of blocks of a message of `len` bytes: one all-zero block if it is empty (R220). -/
def messageBlocks (len : Nat) : Nat := max 1 (blockCount len)

/-- Block `j` of the message, padded with zero bytes to 64 (R220). -/
def messageBlock (msg : List Byte) (j : Nat) : List Byte :=
  let bytes := (msg.drop (64 * j)).take 64
  bytes ++ List.replicate (64 - bytes.length) 0#8

/-- Hash block `j`: its bytes into the 64-byte buffer `bufk` at `a`, the byte counter and the finalization flag, then the
compression (R220). -/
def hashBlock (k : BufReg) (a : Address) (msg : List Byte) (j : Nat) : List HostMove :=
  storeBytes a (messageBlock msg j) ++ [issue (.bsldb 0 k)]
    ++ setCtr (BitVec.ofNat 64 (min msg.length (64 * (j + 1))))
    ++ setAux (if j + 1 = messageBlocks msg.length then 0x00000000FFFFFFFF#64 else 0#64)
    ++ [issue (.b2scomp 0 10#8)]

/-- The unkeyed 32-byte Blake2s of a message, left in `H` (R220); `bufk` names the 64 bytes at `a`. -/
def blakeHash (k : BufReg) (a : Address) (msg : List Byte) : List HostMove :=
  setWin blakeStart ++ [issue .hldw] ++ (List.range (messageBlocks msg.length)).flatMap (hashBlock k a msg)

/-- The digest: the byte image of `H` (R220). -/
def digest (h : Chain) : List Byte := h.toList.flatMap wordImage

end Sys2Proof.Machine
end

