-- ==== Sys2Proof/Laws/HostSequences.lean ====
section
/-! SUPPORT. What the host's counter check of R215 comes to. -/

namespace Sys2Proof.Machine

/-- At least one byte needs at least one block (R214). -/
theorem blockCount_pos {len : Nat} (h : 0 < len) : 0 < blockCount len := by
  unfold blockCount
  omega

/-- A transform that uses the block of the last counter value leaves the cipher exhausted, with `CTR` at 2^64 - 1 (R215). -/
theorem CipherPosition.next_last {p : CipherPosition} {len : Nat} (h : p.counter.toNat + blockCount len = 2 ^ 64) :
    p.next len = { counter := 0xFFFFFFFFFFFFFFFF#64, exhausted := true } := by
  rw [CipherPosition.next, if_pos h]

/-- An exhausted cipher refuses every further block (R215). -/
theorem streamTransformChecked_exhausted {p : CipherPosition} (hp : p.exhausted = true) {len : Nat} (h : 0 < len)
    (moves : List HostMove) : streamTransformChecked p len moves = .error .overflow := by
  simp [streamTransformChecked, CipherPosition.refuses, hp, blockCount_pos h]

/-- A cipher that is not exhausted runs every transform up to and with the last counter value (R215). -/
theorem streamTransformChecked_fits {p : CipherPosition} (hp : p.exhausted = false) {len : Nat}
    (h : p.counter.toNat + blockCount len ≤ 2 ^ 64) (moves : List HostMove) :
    streamTransformChecked p len moves = .ok (moves, p.next len) := by
  have hr : p.refuses len = false := by simpa [CipherPosition.refuses, hp] using h
  simp [streamTransformChecked, hr]

end Sys2Proof.Machine
end

