-- ==== Sys2Proof/Laws/PerInstr.lean ====
section
/-! SUPPORT. Statements about every command as syntax, one lemma per constructor. -/

namespace Sys2Proof.Laws.OperandsExist

/-- Every register and descriptor a command names exists (R94). -/
def Statement (i : Instr) : Prop := i.wellFormed = true

theorem bsldw (bd : BsReg) : Statement (.bsldw bd) := by
  simp [Statement, Instr.wellFormed, Instr.bsRegs, Instr.bufRegs, Config.nbs]

theorem bsldb (bd : BsReg) (k : BufReg) : Statement (.bsldb bd k) := by
  simp [Statement, Instr.wellFormed, Instr.bsRegs, Instr.bufRegs, Config.nbs, Config.nbuf]

theorem bsrdw (bs : BsReg) (idx : BitVec 8) : Statement (.bsrdw bs idx) := by
  simp [Statement, Instr.wellFormed, Instr.bsRegs, Instr.bufRegs, Config.nbs]

theorem bsstb (bs : BsReg) (k : BufReg) : Statement (.bsstb bs k) := by
  simp [Statement, Instr.wellFormed, Instr.bsRegs, Instr.bufRegs, Config.nbs, Config.nbuf]

theorem vcopy (ka kb : BufReg) : Statement (.vcopy ka kb) := by
  simp [Statement, Instr.wellFormed, Instr.bsRegs, Instr.bufRegs, Config.nbuf]

theorem veq (ka kb : BufReg) : Statement (.veq ka kb) := by
  simp [Statement, Instr.wellFormed, Instr.bsRegs, Instr.bufRegs, Config.nbuf]

theorem vxor (ka kb : BufReg) : Statement (.vxor ka kb) := by
  simp [Statement, Instr.wellFormed, Instr.bsRegs, Instr.bufRegs, Config.nbuf]

theorem chacha (bd bs : BsReg) (ndr : BitVec 8) (ff : Bool) : Statement (.chacha bd bs ndr ff) := by
  simp [Statement, Instr.wellFormed, Instr.bsRegs, Instr.bufRegs, Config.nbs]

theorem ctrinc : Statement .ctrinc := rfl

theorem hldw : Statement .hldw := rfl

theorem hrdw (idx : BitVec 8) : Statement (.hrdw idx) := rfl

theorem b2scomp (bm : BsReg) (nr : BitVec 8) : Statement (.b2scomp bm nr) := by
  simp [Statement, Instr.wellFormed, Instr.bsRegs, Instr.bufRegs, Config.nbs]

end Sys2Proof.Laws.OperandsExist
end

