-- ==== Sys2Proof/Laws/Rounds.lean ====
section
/-! SUPPORT. What one step of a round writes and what it leaves, word by word. -/

namespace Sys2Proof.Machine

/-- The words after one ChaCha step: `a` has the sum, `d` the rotated XOR with the sum, every other word is as it was. -/
theorem chachaStep_getElem (v : Block) (a b d : Fin 16) (n : Nat) (h : a ≠ d) (x : Fin 16) :
    (chachaStep v a b d n)[x] =
      if x = d then rotl32 (v[d] ^^^ (v[a] + v[b])) n else if x = a then v[a] + v[b] else v[x] := by
  have hv : a.val ≠ d.val := fun e => h (Fin.ext e)
  by_cases hd : x = d
  · subst hd
    simp [chachaStep, add32, hv]
  · have hd' : d.val ≠ x.val := fun e => hd (Fin.ext e).symm
    by_cases ha : x = a
    · subst ha
      simp [chachaStep, add32, Vector.getElem_set, hd, hd']
    · have ha' : a.val ≠ x.val := fun e => ha (Fin.ext e).symm
      simp [chachaStep, Vector.getElem_set, hd, ha, hd', ha']

/-- The words after one Blake2s sub-step: `a` has the sum, `d` the rotated XOR with the sum, every other word is as it was. -/
theorem mixStep_getElem (v : Block) (a b d : Fin 16) (m : Word) (n : Nat) (h : a ≠ d) (x : Fin 16) :
    (mixStep v a b d m n)[x] =
      if x = d then rotr32 (v[d] ^^^ (v[a] + v[b] + m)) n else if x = a then v[a] + v[b] + m else v[x] := by
  have hv : a.val ≠ d.val := fun e => h (Fin.ext e)
  by_cases hd : x = d
  · subst hd
    simp [mixStep, add32, hv]
  · have hd' : d.val ≠ x.val := fun e => hd (Fin.ext e).symm
    by_cases ha : x = a
    · subst ha
      simp [mixStep, add32, Vector.getElem_set, hd, hd']
    · have ha' : a.val ≠ x.val := fun e => ha (Fin.ext e).symm
      simp [mixStep, Vector.getElem_set, hd, ha, hd', ha']

end Sys2Proof.Machine
end

