-- ==== Sys2Proof/Tests/Slice0.lean ====
section
/-! SUPPORT. The model's own tests: the well-formedness checks on terms they refuse, words written out from the encodings of R93 and
R95, one command at a time against the vectors of 95_test_vectors.md, and for every obligation with hypotheses a state and
operands that meet them. Every expected value is the spec's; none was taken from the model. -/

namespace Sys2Proof.Tests

open Sys2Proof Sys2Proof.Machine Sys2Proof.Claims

/-! ## Helpers -/

/-- A field of the state a command leaves. -/
def after {α : Type} (o : Host.Outcome State Fault Refusal) (f : State → α) : Option α :=
  match o with
  | .next t => some (f t)
  | .fault _ => none
  | .refused _ => none

/-- `s` with bytes written from address `a` up. -/
def holding (a : Nat) (vs : List Byte) (s : State) : State := { s with mem := s.mem.writeBytes a vs }

/-- `s` with a present descriptor. -/
def buffer (k : BufReg) (base len : Word) (s : State) : State :=
  { s with buf := s.buf.set k { base := base, len := len, v := true } }

/-- `s` with a valid BlockState register. -/
def block (r : BsReg) (w : Block) (s : State) : State := s.writeBlock r w

/-- `s` with a valid chaining value. -/
def chain (w : Chain) (s : State) : State := s.writeChain w

/-- `s` with the operands `CNT`, `OFFA`, `OFFB`. -/
def operands (cnt offa offb : Word) (s : State) : State := { s with cnt := cnt, offa := offa, offb := offb }

/-- `s` with `m` as the whole host program. -/
def doing (m : HostMove) (s : State) : State := { s with program := [m], pc := 0 }

/-- A decoded word, where it decodes. -/
def read (w : Word) : Option Instr := (decode w).toOption

/-! ## WellFormed: an ill-formed term for each check, refused -/

/-- R90: a byte access is not of the interface. -/
theorem test_wf_width : (HostMove.rd .byte 0x08).wellFormed = false := by decide

/-- R90: an offset that is no multiple of 4. -/
theorem test_wf_alignment : (HostMove.wr .word 0x06 0#32).wellFormed = false := by decide

/-- R90: an offset past 0xFC. -/
theorem test_wf_window : (HostMove.rd .word 0x100).wellFormed = false := by decide

/-- R90: the last word of the window is inside. -/
theorem test_wf_last_word : (HostMove.rd .word 0xFC).wellFormed = true := by decide

/-! ## Decode: words of R101 and V-EN-1, for every constructor -/

theorem test_decode_bsldw : read 0b00000001_11_00_00000000_0_00000000000#32 = some (.bsldw 3) := by decide
theorem test_decode_bsldb : read 0b00000010_10_11_00000000_0_00000000000#32 = some (.bsldb 2 3) := by decide
theorem test_decode_bsrdw : read 0b00000011_01_00_00001111_0_00000000000#32 = some (.bsrdw 1 15#8) := by decide
theorem test_decode_bsstb : read 0b00000100_11_10_00000000_0_00000000000#32 = some (.bsstb 3 2) := by decide
theorem test_decode_vcopy : read 0b00010000_00_01_00000000_0_00000000000#32 = some (.vcopy 0 1) := by decide
theorem test_decode_veq : read 0b00010001_10_11_00000000_0_00000000000#32 = some (.veq 2 3) := by decide
theorem test_decode_vxor : read 0b00010010_00_01_00000000_0_00000000000#32 = some (.vxor 0 1) := by decide
theorem test_decode_chacha : read 0b00100000_01_00_00001010_1_00000000000#32 = some (.chacha 1 0 10#8 true) := by decide
theorem test_decode_chacha_largest : read 0x20FFF800#32 = some (.chacha 3 3 255#8 true) := by decide
theorem test_decode_ctrinc : read 0b00100001_00_00_00000000_0_00000000000#32 = some .ctrinc := by decide
theorem test_decode_hldw : read 0b00110000_00_00_00000000_0_00000000000#32 = some .hldw := by decide
theorem test_decode_hrdw : read 0b00110001_00_00_00000111_0_00000000000#32 = some (.hrdw 7#8) := by decide
theorem test_decode_b2scomp : read 0b00110010_00_11_00001010_0_00000000000#32 = some (.b2scomp 3 10#8) := by decide

/-- V-EN-2: the illegal words. -/
theorem test_decode_illegal :
    [0x00000000#32, 0xFFFFFFFF#32, 0x05000000#32, 0x13000000#32, 0x22000000#32, 0x33000000#32, 0x01000001#32, 0x01100000#32,
     0x01001000#32, 0x01000800#32, 0x03300000#32, 0x10000800#32, 0x10001000#32, 0x20FFFC00#32, 0x21400000#32, 0x30001000#32,
     0x31100000#32, 0x32400000#32, 0x3200A800#32].all (fun w => (read w).isNone) = true := by decide

/-- R97's three cases, by name: an unlisted `OP`, a `ZERO` bit, an unused field. -/
theorem test_illegal_reasons :
    (illegalReason 0x00000000#32, illegalReason 0x01000001#32, illegalReason 0x21400000#32) =
      (.unknownOpcode, .zeroFieldSet, .unusedFieldSet) := by decide

/-- The host's entry points: a table word is read, and the placed word is what the first step after reset runs (V-CH-7). -/
theorem test_with_fetch_word :
    decodeTableWord 32 0x21000000 = some .ctrinc ∧
    after (step (State.reset.withFetchWord 32 0x21000000)) (fun t => (t.ctr, t.pc)) = some (1#64, 1) := by decide

/-! ## BlockState (V-BS) -/

/-- The bytes 0x00 to 0x3F. -/
def ramp : List Byte := (List.range 64).map (BitVec.ofNat 8)

/-- The block of V-BS-2. -/
def rampBlock : Block :=
  #v[0x03020100#32, 0x07060504#32, 0x0b0a0908#32, 0x0f0e0d0c#32, 0x13121110#32, 0x17161514#32, 0x1b1a1918#32, 0x1f1e1d1c#32,
     0x23222120#32, 0x27262524#32, 0x2b2a2928#32, 0x2f2e2d2c#32, 0x33323130#32, 0x37363534#32, 0x3b3a3938#32, 0x3f3e3d3c#32]

/-- The `WIN` of V-BS-10. -/
def stagedBlock : Block :=
  #v[0x11223344#32, 0x01010101#32, 0x02020202#32, 0x03030303#32, 0x04040404#32, 0x05050505#32, 0x06060606#32, 0x07070707#32,
     0x08080808#32, 0x09090909#32, 0x0a0a0a0a#32, 0x0b0b0b0b#32, 0x0c0c0c0c#32, 0x0d0d0d0d#32, 0x0e0e0e0e#32, 0xAABBCCDD#32]

/-- V-BS-10. -/
theorem test_bsldw_from_win :
    after (exec (.bsldw 3) { State.reset with win := stagedBlock }) (fun t => (t.b[3], t.statusWord)) =
      some (stagedBlock, 0x00080000#32) := by decide

/-- V-BS-2. -/
theorem test_bsldb_little_endian :
    after (exec (.bsldb 0 1) (buffer 1 0x1000#32 64#32 (holding 0x1000 ramp State.reset))) (fun t => t.b[0]) = some rampBlock := by
  decide +kernel

/-- V-BS-8: an ill-formed descriptor is reported before its length. -/
theorem test_bsldb_illformed_first :
    after (exec (.bsldb 2 1) (buffer 1 0xFFFFFFC1#32 64#32 State.reset)) State.statusWord = some 0x00000202#32 := by decide

/-- V-BS-3: the last word. -/
theorem test_bsrdw_last : after (exec (.bsrdw 0 15#8) (block 0 rampBlock State.reset)) State.data = some 0x3F3E3D3C#32 := by decide

/-- V-BS-6: null is checked before the index. -/
theorem test_bsrdw_null_first : after (exec (.bsrdw 1 16#8) State.reset) State.statusWord = some 0x00000403#32 := by decide

/-- V-BS-11: 6 + 64 = 70 is the last legal offset; the bytes around the 64 stay. -/
theorem test_bsstb_bytes :
    after (exec (.bsstb 3 2) (block 3 stagedBlock (operands 0#32 6#32 0#32 (buffer 2 0x2000#32 70#32
        (holding 0x2000 (List.replicate 80 0xEE#8) State.reset)))))
      (fun t => (t.mem.readBytes 0x2004 8, t.mem.readBytes 0x2042 6)) =
      some ([0xEE#8, 0xEE#8, 0x44#8, 0x33#8, 0x22#8, 0x11#8, 0x01#8, 0x01#8], [0xDD#8, 0xCC#8, 0xBB#8, 0xAA#8, 0xEE#8, 0xEE#8]) := by
  decide +kernel

/-- V-BS-13: the sum does not wrap. -/
theorem test_bsstb_no_wrap :
    after (exec (.bsstb 3 2) (block 3 stagedBlock (operands 0#32 0xFFFFFFFF#32 0#32 (buffer 2 0x2000#32 70#32 State.reset))))
      State.statusWord = some 0x00080202#32 := by decide

/-! ## VectorMemory (V-VM) -/

/-- The memory and `BUF0` of V-VM-1. -/
def eight (cnt offa offb : Word) : State :=
  operands cnt offa offb (buffer 0 0x100#32 8#32 (holding 0x100 [1#8, 2#8, 3#8, 4#8, 5#8, 6#8, 7#8, 8#8] State.reset))

/-- The memory and `BUF0` of V-VM-3. -/
def six (cnt offa offb : Word) : State :=
  operands cnt offa offb (buffer 0 0x100#32 6#32 (holding 0x100 [0x01#8, 0x02#8, 0x04#8, 0x08#8, 0x10#8, 0x20#8] State.reset))

/-- The memory and the buffers of V-VM-8. -/
def pair (cnt : Word) : State :=
  operands cnt 0#32 0#32 (buffer 1 0x200#32 4#32 (buffer 0 0x100#32 4#32
    (holding 0x200 [0xAA#8, 0xBB#8, 0xCC#8, 0xDE#8] (holding 0x100 [0xAA#8, 0xBB#8, 0xCC#8, 0xDD#8] State.reset))))

/-- The buffers of V-VM-10. -/
def emptyAndFive : State :=
  buffer 2 0x300#32 0#32 (buffer 1 0x100#32 5#32 (buffer 0 0x100#32 0#32
    (holding 0x100 [1#8, 2#8, 3#8, 4#8, 5#8] State.reset)))

/-- V-VM-1: source before destination. -/
theorem test_vcopy_forward :
    after (exec (.vcopy 0 0) (eight 6#32 2#32 0#32)) (fun t => t.mem.readBytes 0x100 8) =
      some [1#8, 2#8, 1#8, 2#8, 3#8, 4#8, 5#8, 6#8] := by decide +kernel

/-- V-VM-2: destination before source. -/
theorem test_vcopy_backward :
    after (exec (.vcopy 0 0) (eight 6#32 0#32 2#32)) (fun t => t.mem.readBytes 0x100 8) =
      some [3#8, 4#8, 5#8, 6#8, 7#8, 8#8, 7#8, 8#8] := by decide +kernel

/-- V-VM-8, V-VM-9: the fourth byte differs. -/
theorem test_veq_bytes :
    (after (exec (.veq 0 1) (pair 3#32)) State.statusWord, after (exec (.veq 0 1) (pair 4#32)) State.statusWord) =
      (some 0x00000010#32, some 0x00000000#32) := by decide +kernel

/-- V-VM-10a, V-VM-10b, V-VM-10c: the zero-length cases. -/
theorem test_veq_empty :
    (after (exec (.veq 0 1) emptyAndFive) State.eq, after (exec (.veq 0 2) emptyAndFive) State.eq,
      after (exec (.veq 1 1) emptyAndFive) State.eq) = (some false, some true, some true) := by decide +kernel

/-- V-VM-3: overlapping, on old values. -/
theorem test_vxor_overlap :
    after (exec (.vxor 0 0) (six 4#32 0#32 2#32)) (fun t => t.mem.readBytes 0x100 6) =
      some [0x05#8, 0x0A#8, 0x14#8, 0x28#8, 0x10#8, 0x20#8] := by decide +kernel

/-- V-VM-6: the same range through two descriptors is left as it is. -/
theorem test_vxor_coinciding :
    after (exec (.vxor 0 1) (buffer 1 0x0FE#32 10#32 (eight 4#32 2#32 4#32))) (fun t => t.mem.readBytes 0x100 8) =
      some [1#8, 2#8, 3#8, 4#8, 5#8, 6#8, 7#8, 8#8] := by decide +kernel

/-! ## ChaCha (V-CH) -/

/-- Four words at indices 0 to 3, zeros elsewhere. -/
def four (a b c d : Word) : Block :=
  #v[a, b, c, d, 0#32, 0#32, 0#32, 0#32, 0#32, 0#32, 0#32, 0#32, 0#32, 0#32, 0#32, 0#32]

/-- V-CH-1, first row. -/
theorem test_quarter_round :
    quarterRound (four 0x11111111#32 0x01020304#32 0x9b8d6f43#32 0x01234567#32) 0 1 2 3 =
      four 0xea2a92f4#32 0xcb1cf8ce#32 0x4581472e#32 0x5881c4bb#32 := by decide +kernel

/-- The cipher register of V-CH-2, with words 12 to 15 that must not matter. -/
def testKey : Block :=
  #v[0x61707865#32, 0x3320646e#32, 0x79622d32#32, 0x6b206574#32, 0#32, 0#32, 0#32, 0#32, 0#32, 0#32, 0#32, 0x01000000#32,
     0xdeadbeef#32, 0xdeadbeef#32, 0xdeadbeef#32, 0xdeadbeef#32]

/-- V-CH-3: the known keystream block. -/
theorem test_chacha_keystream :
    after (exec (.chacha 1 0 10#8 true) (block 0 testKey { State.reset with ctr := 1#64 })) (fun t => t.b[1]) =
      some #v[0x2452eb3a#32, 0x9249f8ec#32, 0x8d829d9b#32, 0xddd4ceb1#32, 0xe8252083#32, 0x60818b01#32, 0xf38422b8#32,
              0x5aaa49c9#32, 0xbb00ca8e#32, 0xda3ba7b4#32, 0xc4b592d1#32, 0xfdf2732f#32, 0x4436274e#32, 0x2561b3c8#32,
              0xebdd4aa6#32, 0xa0136c00#32] := by decide +kernel

/-- V-CH-2: one double-round without feed-forward, in place (R96). -/
theorem test_chacha_in_place :
    after (exec (.chacha 0 0 1#8 false) (block 0 testKey { State.reset with ctr := 1#64 })) (fun t => t.b[0]) =
      some #v[0xd35fd149#32, 0xfee820b9#32, 0xbca6ea58#32, 0x8e7f398e#32, 0xca47ca72#32, 0xff30d210#32, 0xa186c865#32,
              0xe9c7afaf#32, 0xe82ddff1#32, 0xf43be6b1#32, 0x11090699#32, 0x4af79a0d#32, 0x2bbe94ec#32, 0x7ed2a9b1#32,
              0x9b8f6839#32, 0x87d52142#32] := by decide +kernel

/-- V-CH-7: the carry across the halves. -/
theorem test_ctrinc_carry :
    after (exec .ctrinc { State.reset with ctr := 0x00000000FFFFFFFF#64 }) State.ctr = some 0x0000000100000000#64 := by decide

/-- V-CH-7: the counter never wraps. -/
theorem test_ctrinc_overflow :
    after (exec .ctrinc { State.reset with ctr := 0xFFFFFFFFFFFFFFFF#64 }) (fun t => (t.ctr, t.statusWord)) =
      some (0xFFFFFFFFFFFFFFFF#64, 0x00000804#32) := by decide

/-! ## Blake2s (V-B2) -/

/-- The `H0` of V-B2-2. -/
def startChain : Chain :=
  #v[0x6b08e647#32, 0xbb67ae85#32, 0x3c6ef372#32, 0xa54ff53a#32, 0x510e527f#32, 0x9b05688c#32, 0x1f83d9ab#32, 0x5be0cd19#32]

/-- `WIN` holding `H0`. -/
def stagedChain : Block :=
  #v[0x6b08e647#32, 0xbb67ae85#32, 0x3c6ef372#32, 0xa54ff53a#32, 0x510e527f#32, 0x9b05688c#32, 0x1f83d9ab#32, 0x5be0cd19#32,
     1#32, 1#32, 1#32, 1#32, 1#32, 1#32, 1#32, 1#32]

/-- The operands of V-B2-3. -/
def abc : State :=
  chain startChain (block 0 (four 0x00636261#32 0#32 0#32 0#32) { State.reset with ctr := 3#64, aux := 0x00000000FFFFFFFF#64 })

/-- V-B2-1, second row. -/
theorem test_mix :
    mixG (four 0x11111111#32 0x01020304#32 0x9b8d6f43#32 0x01234567#32) 0 1 2 3 0xdeadbeef#32 0x00c0ffee#32 =
      four 0x13a4e228#32 0x1fbea84e#32 0xfd772839#32 0xcb85c713#32 := by decide +kernel

/-- The example of R191. -/
theorem test_hldw_from_win :
    after (exec .hldw { State.reset with win := stagedChain }) (fun t => (t.h, t.hv)) = some (startChain, true) := by decide

/-- V-B2-6: `hrdw 7` is the last legal index. -/
theorem test_hrdw_last :
    (after (exec (.hrdw 7#8) abc) State.data, after (exec (.hrdw 8#8) abc) (fun t => (t.data, t.err))) =
      (some 0x5be0cd19#32, some (0#32, some .indexOutOfRange)) := by decide

/-- V-B2-6: straight after reset there is no chaining value. -/
theorem test_hrdw_null : after (exec (.hrdw 0#8) State.reset) State.statusWord = some 0x00000403#32 := by decide

/-- V-B2-3: the compression of "abc". -/
theorem test_b2scomp_abc :
    after (exec (.b2scomp 0 10#8) abc) State.h =
      some #v[0x8c5e8c50#32, 0xe2147c32#32, 0xa32ba7e1#32, 0x2f45eb4e#32, 0x208b4537#32, 0x293ad69e#32, 0x4c9b994d#32,
              0x82596786#32] := by decide +kernel

/-- V-B2-2: eleven rounds use row 0 again, and `CTR_HI` would enter word 13. -/
theorem test_b2scomp_row_cycle :
    after (exec (.b2scomp 0 11#8) abc) State.h =
      some #v[0x44db3f7a#32, 0x25562837#32, 0x043acb08#32, 0xf01273c4#32, 0x125ed2a7#32, 0x1b1fae65#32, 0x3579eb67#32,
              0x07c08035#32] := by decide +kernel

/-! ## Status and window (V-ST) -/

/-- V-ST-2: a write of ones clears `STICKY` only. -/
theorem test_status_write :
    after (step (doing (.wr .word 0x08 0xFFFFFFFF#32) { State.reset with err := some .argumentNull, sticky := 0b00100#5, eq := true }))
      State.statusWord = some 0x00000013#32 := by decide

/-- V-ST-1: only four bits of `BUFV` are there. -/
theorem test_bufv_bits :
    readOffset (writeOffset State.reset 0x2C 0xFFFFFFFF#32) 0x2C = 0x0000000F#32 := by decide

/-- V-ST-1: `ID` reads its constant and ignores a write. -/
theorem test_id_constant : readOffset (writeOffset State.reset 0 0xFFFFFFFF#32) 0 = 0x44534331#32 := by decide

/-! ## Host sequences (R101, R102, R211 to R220) -/

/-- Program P1, transactions 34 to 41: the second, partial chunk of 70 bytes. -/
theorem test_stream_block :
    streamBlock 70 1 =
      [.wr .word 4 0x2040A800#32, .wr .word 0x24 0#32, .wr .word 4 0x04500000#32, .wr .word 0x20 6#32, .wr .word 0x24 0x40#32,
       .wr .word 0x28 0#32, .wr .word 4 0x12100000#32, .wr .word 4 0x21000000#32] := by decide

/-- R212: the test key's last word, in a register of sixteen words. -/
theorem test_cipher_register :
    ((cipherRegister (List.replicate 31 0#8 ++ [1#8]) (List.replicate 8 0#8) 1#64).toOption.map fun r => (r.length, r.getD 11 0#32)) =
      some (16, 0x01000000#32) := by decide +kernel

/-- R215: one block past the last counter value is refused; the last one is not, and after it every further block is. -/
theorem test_counter_exhaustion :
    let fresh : CipherPosition := { counter := 0xFFFFFFFFFFFFFFFF#64, exhausted := false }
    fresh.refuses 65 = true ∧ fresh.refuses 64 = false ∧ (fresh.next 64).refuses 1 = true ∧ (fresh.next 64).refuses 0 = false := by
  decide

/-- R215, V-CH-7: what the host sees after the last `ctrinc` is the exhausted position that the check predicted. -/
theorem test_exhaustion_observed :
    after (exec .ctrinc { State.reset with ctr := 0xFFFFFFFFFFFFFFFF#64 }) (fun t => CipherPosition.observe t.ctr t.statusWord) =
      some (CipherPosition.next { counter := 0xFFFFFFFFFFFFFFFF#64, exhausted := false } 64) := by decide

/-- R211, program P4: the byte image of the constant words is "expand 32-byte k", and the image of the whole register has 64 bytes. -/
theorem test_register_image :
    registerImage chachaConstants =
      [0x65#8, 0x78#8, 0x70#8, 0x61#8, 0x6e#8, 0x64#8, 0x20#8, 0x33#8, 0x32#8, 0x2d#8, 0x62#8, 0x79#8, 0x74#8, 0x65#8, 0x20#8, 0x6b#8] ∧
    (registerImage testKey.toList).length = 64 := by decide

/-- R211, program P4, transaction 3: the image is loaded by `bsldb b0, buf3`. -/
theorem test_load_cipher_image : (loadCipherImage 3 0x4000#32 testKey.toList)[64]? = some (.wr .word 4 0x02300000#32) := by
  decide +kernel

/-- R214: from `buf2` to `buf0` a `vcopy buf0, buf2` comes before the loop. -/
theorem test_stream_from :
    streamTransformFrom 2 6 =
      [.wr .word 0x20 6#32, .wr .word 0x24 0#32, .wr .word 0x28 0#32, .wr .word 4 0x10200000#32] ++ streamBlock 6 0 := by decide

/-- V-CH-8: the first sixteen nonce bytes as `CTR` and `AUX`. -/
theorem test_nonce_halves :
    (dwordOfBytes [0x00#8, 0x00#8, 0x00#8, 0x09#8, 0x00#8, 0x00#8, 0x00#8, 0x4a#8],
      dwordOfBytes [0x00#8, 0x00#8, 0x00#8, 0x00#8, 0x31#8, 0x41#8, 0x59#8, 0x27#8]) =
      (0x4A00000009000000#64, 0x2759413100000000#64) := by decide

/-- V-B2-3: the digest bytes of `H`. -/
theorem test_digest : (digest #v[0x8c5e8c50#32, 0#32, 0#32, 0#32, 0#32, 0#32, 0#32, 0x82596786#32]).take 4 ++
    (digest #v[0x8c5e8c50#32, 0#32, 0#32, 0#32, 0#32, 0#32, 0#32, 0x82596786#32]).drop 28 =
      [0x50#8, 0x8c#8, 0x5e#8, 0x8c#8, 0x86#8, 0x67#8, 0x59#8, 0x82#8] := by decide

/-! ## Witnesses: what meets the hypotheses of the obligations

Named after the obligation. Each clause with hypotheses of its own has its own conjunct, at a boundary of its range. -/

theorem test_hyp_DecodedWordIsItsEncoding : decode 0x20FFF800#32 = .ok (.chacha 3 3 255#8 true) := rfl

theorem test_hyp_DecodeFollowsOpcodeMap :
    (∃ r ∈ specRows, r.isMatch 0x20FFF800#32 = true) ∧ ∀ r ∈ specRows, r.isMatch 0x20FFFC00#32 = false := by
  refine ⟨⟨_, List.mem_of_getElem? (i := 7) rfl, by decide⟩, by decide⟩

theorem test_hyp_IllegalWordRaisesIllegalCommand :
    (∀ r ∈ specRows, r.isMatch 0x00000000#32 = false) ∧
    bits 0x33000000#32 24 8 ∉ [0x01, 0x02, 0x03, 0x04, 0x10, 0x11, 0x12, 0x20, 0x21, 0x30, 0x31, 0x32] ∧
    bits 0x20FFFC00#32 0 11 ≠ 0 ∧
    (bits 0x10000800#32 11 1 ≠ 0 ∧ bits 0x10000800#32 24 8 ≠ 0x20) ∧
    (bits 0x10001000#32 12 8 ≠ 0 ∧ bits 0x10001000#32 24 8 ∉ [0x03, 0x20, 0x31, 0x32]) ∧
    (bits 0x03300000#32 20 2 ≠ 0 ∧ bits 0x03300000#32 24 8 ∈ [0x01, 0x03, 0x21, 0x30, 0x31]) ∧
    (bits 0x32400000#32 22 2 ≠ 0 ∧ bits 0x32400000#32 24 8 ∈ [0x21, 0x30, 0x31, 0x32]) := by decide

theorem test_hyp_StepRunsDecodedCommand :
    nextMove (doing (.wr .word 0x04 0x20FFF800#32) State.reset) (.wr .word 0x04 0x20FFF800#32) ∧
    decode 0x20FFF800#32 = .ok (.chacha 3 3 255#8 true) := ⟨rfl, rfl⟩

theorem test_hyp_MoveAdvancesPcByOne :
    (∃ t, step (doing (.rd .word 0xFC) State.reset) = .next t) ∧ step State.reset = .fault .runEnded ∧
    State.reset.program.length ≤ State.reset.pc := ⟨⟨_, rfl⟩, rfl, by decide⟩

theorem test_hyp_FailureChangesOnlyErrAndSticky :
    runCommand 0x00000000#32 State.reset = .next (State.reset.raise .illegalCommand) ∧
    (State.reset.raise .illegalCommand).err = some .illegalCommand := ⟨rfl, rfl⟩

theorem test_hyp_SuccessClearsErrKeepsSticky : cause (.bsldb 0 1) (buffer 1 0xFFFFFFC0#32 64#32 State.reset) = none := by decide

/-- A state with sticky bit 10 (bit 2 of `STICKY`) set. -/
def sticky10 (m : HostMove) : State := doing m { State.reset with sticky := 0b00100#5 }

theorem test_hyp_StickyClearedOnlyByHostOrReset :
    (nextMove (sticky10 (.wr .word 0x08 0x00000400#32)) (.wr .word 0x08 0x00000400#32) ∧
      (sticky10 (.wr .word 0x08 0x00000400#32)).sticky.getLsbD 2 = true ∧
      after (step (sticky10 (.wr .word 0x08 0x00000400#32))) (fun t => t.sticky.getLsbD 2) = some false) ∧
    (nextMove (sticky10 .reset) .reset ∧ after (step (sticky10 .reset)) (fun t => t.sticky.getLsbD 2) = some false) := by
  refine ⟨⟨rfl, by decide, by decide⟩, rfl, by decide⟩

theorem test_hyp_CommandFrame : ∃ t, exec (.chacha 1 0 10#8 true) (block 0 testKey State.reset) = .next t := ⟨_, rfl⟩

theorem test_hyp_StoresStayInDestination :
    (eight 6#32 2#32 0#32).Inv ∧ (∃ t, exec (.vcopy 0 0) (eight 6#32 2#32 0#32) = .next t) ∧
    ∀ a n, stored (.vcopy 0 0) (eight 6#32 2#32 0#32) a n → 0x101 < a ∨ a + n ≤ 0x101 := by
  refine ⟨by unfold State.Inv; decide, ⟨_, rfl⟩, ?_⟩
  rintro a n (⟨_, _, h, _⟩ | ⟨ka, kb, h, rfl, rfl⟩)
  · cases h
  · rcases h with h | h <;> cases h
    exact .inl (by decide)

theorem test_hyp_EqFlagWrittenOnlyByVeq :
    (∀ ka kb, Instr.vxor 0 1 ≠ .veq ka kb) ∧
    (after (runCommand 0x00000000#32 State.reset) (fun t => decide (t.err ≠ none)) = some true) ∧
    (after (exec (.veq 0 1) (pair 4#32)) (fun t => decide (t.err = none)) = some true) ∧
    (nextMove (doing (.wr .word 0x00 0#32) State.reset) (.wr .word 0x00 0#32) ∧
      (HostMove.wr .word 0x00 0#32).isReset = false ∧ ∀ w, HostMove.wr .word 0x00 0#32 ≠ .wr .word 0x04 w) := by
  refine ⟨(by intro ka kb h; cases h), by decide, by decide +kernel, rfl, rfl, by intro w h; cases h⟩

theorem test_hyp_DataWrittenOnlyByWordReads :
    (after (runCommand 0x21000000#32 State.reset) (fun t => decide (t.err = none)) = some true ∧
      ∀ i, decode 0x21000000#32 = .ok i → ¬ writesData i) ∧
    (after (exec (.bsrdw 0 15#8) (block 0 rampBlock State.reset)) (fun t => decide (t.err = none)) = some true) ∧
    (after (exec (.hrdw 7#8) abc) (fun t => decide (t.err = none)) = some true) ∧
    nextMove (doing (.rd .word 0x0C) State.reset) (.rd .word 0x0C) ∧
    (nextMove (doing (.load 0#32) State.reset) (.load 0#32) ∧ ∀ w, HostMove.load 0#32 ≠ .wr .word 0x04 w) := by
  refine ⟨⟨by decide, ?_⟩, by decide, by decide, rfl, rfl, by intro w h; cases h⟩
  intro i h
  cases (show Except.ok Instr.ctrinc = Except.ok i from h)
  rintro (⟨_, _, h⟩ | ⟨_, h⟩) <;> cases h

theorem test_hyp_StepKeepsMemoryCanonical :
    (doing (.store 0xFFFFFFFF#32 0x5A#8) State.reset).Inv ∧
    ∃ t, step (doing (.store 0xFFFFFFFF#32 0x5A#8) State.reset) = .next t := ⟨by unfold State.Inv; decide, _, rfl⟩

theorem test_hyp_ResetMeetsInvariant : (eight 0#32 0#32 0#32).Inv := by unfold State.Inv; decide

theorem test_hyp_MemWriteSetsItsBytesOnly :
    Memory.wf [(7, 1#8)] = true ∧ 0xFFFFFFFE + [1#8, 2#8].length ≤ 2 ^ 32 ∧
    (0xFFFFFFFE ≤ 0xFFFFFFFF ∧ 0xFFFFFFFF - 0xFFFFFFFE < [1#8, 2#8].length) ∧
    ¬ (0xFFFFFFFE ≤ 0xFFFFFFFD ∧ 0xFFFFFFFD - 0xFFFFFFFE < [1#8, 2#8].length) := by decide

theorem test_hyp_CanonicalMemoriesWithEqualBytesAreEqual :
    Memory.wf [(7, 1#8), (0xFFFFFFFF, 2#8)] = true ∧ Memory.wf [(7, 0#8)] = false ∧ Memory.wf [(8, 1#8), (7, 1#8)] = false := by decide

theorem test_hyp_AdmittedRangeInsideMemory :
    Descriptor.admits { base := 0xFFFFFFC0#32, len := 64#32, v := true } (63#32).toNat 1 = true := by decide

theorem test_hyp_BsldbConstructsFromBytes :
    ((State.reset.buf[(0 : BufReg)]).v = false) ∧
    (((buffer 0 0xFFFFFFC1#32 64#32 State.reset).buf[(0 : BufReg)]).v = true ∧
      illFormed (buffer 0 0xFFFFFFC1#32 64#32 State.reset).buf[(0 : BufReg)]) ∧
    (¬ illFormed (buffer 0 0xFFFFFFC1#32 63#32 State.reset).buf[(0 : BufReg)] ∧
      ((buffer 0 0xFFFFFFC1#32 63#32 State.reset).buf[(0 : BufReg)]).len.toNat ≠ 64) ∧
    (¬ illFormed (buffer 0 0xFFFFFFC0#32 64#32 State.reset).buf[(0 : BufReg)] ∧
      ((buffer 0 0xFFFFFFC0#32 64#32 State.reset).buf[(0 : BufReg)]).len.toNat = 64) := by
  unfold illFormed; decide

theorem test_hyp_BsrdwReadsIndexedWord :
    State.reset.bv[(1 : BsReg)] = false ∧ (block 0 rampBlock State.reset).bv[(0 : BsReg)] = true ∧
    (16#8).toNat ≥ 16 ∧ (15#8).toNat < 16 := by decide

theorem test_hyp_BsstbSerializesToBytes :
    let s := block 3 stagedBlock (operands 0#32 6#32 0#32 (buffer 2 0x2000#32 70#32 State.reset))
    let past := operands 0#32 7#32 0#32 s
    let bad := buffer 2 0xFFFFFFC1#32 64#32 s
    (s.bv[(0 : BsReg)] = false ∨ (s.buf[(2 : BufReg)]).v = false) ∧
    (bad.bv[(3 : BsReg)] = true ∧ (bad.buf[(2 : BufReg)]).v = true ∧ illFormed bad.buf[(2 : BufReg)]) ∧
    (past.bv[(3 : BsReg)] = true ∧ (past.buf[(2 : BufReg)]).v = true ∧ ¬ illFormed past.buf[(2 : BufReg)] ∧
      past.offa.toNat + 64 > (past.buf[(2 : BufReg)]).len.toNat) ∧
    (s.bv[(3 : BsReg)] = true ∧ (s.buf[(2 : BufReg)]).v = true ∧ ¬ illFormed s.buf[(2 : BufReg)] ∧
      s.offa.toNat + 64 ≤ (s.buf[(2 : BufReg)]).len.toNat ∧ s.Inv) := by
  unfold illFormed State.Inv; decide +kernel

theorem test_hyp_SerializeAndConstructAreInverse : Memory.wf [] = true ∧ 0xFFFFFFC0 + 64 ≤ 2 ^ 32 := by decide

theorem test_hyp_VectorCommandsValidateFirst :
    ((eight 6#32 2#32 0#32).buf[(1 : BufReg)]).v = false ∧
    (let s := buffer 0 0xFFFFFFF0#32 0x20#32 State.reset;
      (s.buf[(0 : BufReg)]).v = true ∧ illFormed s.buf[(0 : BufReg)]) ∧
    (let s := eight 7#32 2#32 0#32;
      (s.buf[(0 : BufReg)]).v = true ∧ ¬ illFormed s.buf[(0 : BufReg)] ∧ s.offa.toNat + s.cnt.toNat > (s.buf[(0 : BufReg)]).len.toNat) ∧
    (let s := buffer 0 0x100#32 5#32 (operands 2#32 0xFFFFFFFF#32 0#32 State.reset);
      s.offa.toNat + s.cnt.toNat > (s.buf[(0 : BufReg)]).len.toNat) := by
  unfold illFormed; decide +kernel

theorem test_hyp_VcopyMovesBytes :
    vectorCause 0 1 (eight 6#32 2#32 0#32) = some .argumentNull ∧ vectorReady 0 0 (eight 6#32 2#32 0#32) ∧ (eight 6#32 2#32 0#32).Inv := by
  unfold vectorReady illFormed State.Inv; decide +kernel

theorem test_hyp_VeqComparesBytes :
    vectorCause 0 3 (pair 4#32) = some .argumentNull ∧ vectorReady 0 1 (pair 4#32) ∧
    (vectorReady 0 1 emptyAndFive ∧ (emptyAndFive.buf[(0 : BufReg)]).len.toNat = 0) ∧
    (vectorReady 0 0 (pair 4#32) ∧ startA 0 (pair 4#32) = startB 0 (pair 4#32)) := by
  unfold vectorReady illFormed; decide +kernel

theorem test_hyp_VxorCombinesBytes :
    vectorCause 0 1 (six 4#32 0#32 2#32) = some .argumentNull ∧
    (vectorReady 0 0 (six 6#32 0#32 0#32) ∧ startA 0 (six 6#32 0#32 0#32) = startB 0 (six 6#32 0#32 0#32)) ∧
    (vectorReady 0 0 (six 4#32 0#32 2#32) ∧ startA 0 (six 4#32 0#32 2#32) ≠ startB 0 (six 4#32 0#32 2#32) ∧
      (six 4#32 0#32 2#32).Inv) := by
  unfold vectorReady illFormed State.Inv; decide +kernel

/-- V-VM-12: the offset may equal the length when the count is 0. -/
theorem test_hyp_ZeroCountVectorCommands :
    vectorReady 1 1 (operands 0#32 5#32 5#32 emptyAndFive) ∧ (operands 0#32 5#32 5#32 emptyAndFive).cnt.toNat = 0 := by
  unfold vectorReady illFormed; decide +kernel

theorem test_hyp_InPlaceDirectionMatchesTemporary :
    Memory.wf [(0xFFFFFFFF, 1#8)] = true ∧ 0xFFFFFFFE + 2 ≤ 2 ^ 32 ∧ 0xFFFFFFFD + 2 ≤ 2 ^ 32 ∧ 0xFFFFFFFE ≠ 0xFFFFFFFD := by decide

/-- Neighbouring ranges of V-VM-8's buffers, and one range before the other in one buffer. -/
theorem test_hyp_DisjointXorTwiceRestores :
    (pair 4#32).Inv ∧ vectorReady 0 1 (pair 4#32) ∧ startA 0 (pair 4#32) + (pair 4#32).cnt.toNat ≤ startB 1 (pair 4#32) ∧
    vectorReady 0 0 (six 3#32 3#32 0#32) ∧
    startB 0 (six 3#32 3#32 0#32) + (six 3#32 3#32 0#32).cnt.toNat ≤ startA 0 (six 3#32 3#32 0#32) := by
  unfold vectorReady illFormed State.Inv; decide +kernel

theorem test_hyp_ChachaAppliesDoubleRounds :
    State.reset.bv[(0 : BsReg)] = false ∧ (block 0 testKey State.reset).bv[(0 : BsReg)] = true := by decide

/-- Both passes in the opposite order. -/
theorem test_hyp_DoubleRoundIsColumnsThenDiagonals :
    [((3 : Fin 16), (7 : Fin 16), (11 : Fin 16), (15 : Fin 16)), (2, 6, 10, 14), (1, 5, 9, 13), (0, 4, 8, 12)].Perm
      [(0, 4, 8, 12), (1, 5, 9, 13), (2, 6, 10, 14), (3, 7, 11, 15)] ∧
    [((3 : Fin 16), (4 : Fin 16), (9 : Fin 16), (14 : Fin 16)), (2, 7, 8, 13), (1, 6, 11, 12), (0, 5, 10, 15)].Perm
      [(0, 5, 10, 15), (1, 6, 11, 12), (2, 7, 8, 13), (3, 4, 9, 14)] := by decide

theorem test_hyp_QuarterRoundOperations : [(0 : Fin 16), 5, 10, 15].Nodup ∧ (1 : Fin 16) ∉ [(0 : Fin 16), 5, 10, 15] := by decide

theorem test_hyp_DisjointQuarterRoundsCommute : [(0 : Fin 16), 4, 8, 12, 3, 7, 11, 15].Nodup := by decide

theorem test_hyp_RotationsAreRotations : (0 < 1 ∧ 1 < 32) ∧ (0 < 31 ∧ 31 < 32) := by decide

/-- Two states that agree in what `CHACHA` reads and differ in word 15 of the source and in `H`. -/
theorem test_hyp_ChachaDependsOnNothingElse :
    let s := block 0 testKey State.reset
    let t := chain startChain (block 0 (testKey.set 15 0#32) State.reset)
    s.bv[(0 : BsReg)] = true ∧ t.bv[(0 : BsReg)] = true ∧
    (∀ (i : Fin 16), i < 12 → (s.b[(0 : BsReg)])[i] = (t.b[(0 : BsReg)])[i]) ∧
    s.ctr = t.ctr ∧ s.aux = t.aux ∧ s ≠ t := by decide +kernel

theorem test_hyp_CtrincCountsOrOverflows :
    (0xFFFFFFFFFFFFFFFF#64).toNat = 2 ^ 64 - 1 ∧ (0xFFFFFFFFFFFFFFFE#64).toNat ≠ 2 ^ 64 - 1 := by decide

theorem test_hyp_HrdwReadsChainingWord :
    State.reset.hv = false ∧ abc.hv = true ∧ (8#8).toNat ≥ 8 ∧ (7#8).toNat < 8 := by decide

theorem test_hyp_B2scompCompressesBlock :
    (State.reset.hv = false ∨ State.reset.bv[(0 : BsReg)] = false) ∧ abc.hv = true ∧ abc.bv[(0 : BsReg)] = true := by decide

theorem test_hyp_MixOperations : [(3 : Fin 16), 4, 9, 14].Nodup ∧ (0 : Fin 16) ∉ [(3 : Fin 16), 4, 9, 14] := by decide

theorem test_hyp_ZeroRoundCompressionForgetsChain : abc.hv = true ∧ abc.bv[(0 : BsReg)] = true := by decide

/-- Two states that agree in what `B2SCOMP` reads and differ in `DATA`. -/
theorem test_hyp_B2scompDependsOnNothingElse :
    abc.hv = true ∧ abc.bv[(0 : BsReg)] = true ∧ abc.h = (abc.writeData 1#32).h ∧ abc.b[(0 : BsReg)] = (abc.writeData 1#32).b[(0 : BsReg)] ∧
    abc.ctr = (abc.writeData 1#32).ctr ∧ abc.aux = (abc.writeData 1#32).aux ∧ abc ≠ abc.writeData 1#32 := by decide +kernel

theorem test_hyp_ResetLeavesSpecValues : nextMove (doing .reset abc) .reset ∧ readsValid (.b2scomp 3 255#8) := ⟨rfl, trivial⟩

/-- Two different machines that differ only behind the clear valid bit of `B[0]`. -/
theorem test_hyp_HiddenContentsAreUnobservable :
    let s : State := { State.reset with b := State.reset.b.set 0 rampBlock }
    s ≠ State.reset ∧ s.visible = State.reset.visible := by decide +kernel

theorem test_hyp_ValidBitsClearedOnlyByReset :
    nextMove (doing (.wr .word 0x04 0x00000000#32) abc) (.wr .word 0x04 0x00000000#32) ∧
    (HostMove.wr .word 0x04 0x00000000#32).isReset = false ∧
    (∃ t, step (doing (.wr .word 0x04 0x00000000#32) abc) = .next t) ∧ abc.bv[(0 : BsReg)] = true ∧ abc.hv = true := by
  refine ⟨rfl, rfl, ⟨_, rfl⟩, by decide, by decide⟩

/-- A `VCOPY` that would pass its checks and one that would fail them (`0x10100000`: `buf1` is null). -/
theorem test_hyp_ResetDuringCommandKeepsOtherBytes :
    let s := doing (.resetDuring 0x10000000#32) (eight 6#32 2#32 0#32)
    nextMove s (.resetDuring 0x10000000#32) ∧ wordCause 0x10000000#32 s = none ∧ wordCause 0x10100000#32 s ≠ none ∧ s.Inv ∧
    ∀ i a n, decode 0x10000000#32 = .ok i → stored i s a n → 0x101 < a ∨ a + n ≤ 0x101 := by
  refine ⟨rfl, by decide +kernel, by decide +kernel, by unfold State.Inv; decide, ?_⟩
  intro i a n h
  cases (show Except.ok (Instr.vcopy 0 0) = Except.ok i from h)
  rintro (⟨_, _, h, _⟩ | ⟨ka, kb, h, rfl, rfl⟩)
  · cases h
  · rcases h with h | h <;> cases h
    exact .inl (by decide)

theorem test_hyp_WindowReadsReturnRegisters :
    (0xBC, State.reset.win[15]) ∈ windowValues State.reset ∧
    (reservedOffset 0x50 ∧ reservedOffset 0x7C ∧ reservedOffset 0xC0 ∧ reservedOffset 0xFC) ∧
    ¬ reservedOffset 0x4C ∧ ¬ reservedOffset 0x80 ∧ ¬ reservedOffset 0xBC ∧
    nextMove (doing (.rd .word 0xBC) State.reset) (.rd .word 0xBC) := by
  refine ⟨by decide +kernel, ?_, ?_, ?_, ?_, rfl⟩ <;> unfold reservedOffset <;> decide

theorem test_hyp_WindowWritesStoreRegisters :
    (0xBC, { State.reset with win := State.reset.win.set 15 7#32 }) ∈ windowEffects State.reset 7#32 ∧
    reservedOffset 0xFC ∧ nextMove (doing (.wr .word 0xBC 7#32) State.reset) (.wr .word 0xBC 7#32) := by
  refine ⟨by decide +kernel, by unfold reservedOffset; decide, rfl⟩

theorem test_hyp_OnlyCommandsChangeResults :
    (nextMove (doing (.rd .word 0x04) State.reset) (.rd .word 0x04) ∧ ∃ t, step (doing (.rd .word 0x04) State.reset) = .next t) ∧
    (0x08 ≠ 0x04 ∧ nextMove (doing (.wr .word 0x08 0#32) State.reset) (.wr .word 0x08 0#32)) ∧
    ∃ t, step (doing (.wr .word 0x08 0#32) State.reset) = .next t := ⟨⟨rfl, _, rfl⟩, ⟨by decide, rfl⟩, _, rfl⟩

/-- One transaction for each clause: a byte access, an unaligned one, the first offset past the window, the last one inside. -/
theorem test_hyp_ForeignTransactionsAreRefused :
    (nextMove (doing (.rd .byte 0x00) State.reset) (.rd .byte 0x00) ∧ Width.byte ≠ .word) ∧
    (nextMove (doing (.rd .word 0x05) State.reset) (.rd .word 0x05) ∧ 0x05 % 4 ≠ 0) ∧
    (nextMove (doing (.wr .word 0x100 0#32) State.reset) (.wr .word 0x100 0#32) ∧ 0x100 % 4 = 0 ∧ 0xFC < 0x100) ∧
    (nextMove (doing (.wr .word 0xFC 0#32) State.reset) (.wr .word 0xFC 0#32) ∧ 0xFC % 4 = 0 ∧ 0xFC ≤ 0xFC) := by
  refine ⟨⟨rfl, by decide⟩, ⟨rfl, by decide⟩, ⟨rfl, by decide⟩, rfl, by decide⟩

theorem test_hyp_HostLoadsSeeHostStores :
    let s : State := { State.reset with program := [.store 0xFFFFFFFF#32 7#8, .load 0xFFFFFFFF#32] }
    s.Inv ∧ nextMove s (.store 0xFFFFFFFF#32 7#8) ∧ s.program[s.pc + 1]? = some (.load 0xFFFFFFFF#32) := by
  refine ⟨by unfold State.Inv; decide, rfl, rfl⟩

end Sys2Proof.Tests
end

section
/-! The rotations of R7 as the rotations of the library, and each direction as the other. -/

namespace Sys2Proof.Machine

theorem rotl32_eq_rotateLeft (x : Word) {n : Nat} (h : n < 32) : rotl32 x n = x.rotateLeft n := by
  rw [rotl32, BitVec.rotateLeft_def, Nat.mod_eq_of_lt h]

theorem rotr32_eq_rotateRight (x : Word) {n : Nat} (h : n < 32) : rotr32 x n = x.rotateRight n := by
  rw [rotr32, BitVec.rotateRight_def, Nat.mod_eq_of_lt h]

/-- The two shifts of `rotr32` by `n` are those of `rotl32` by `32 - n`, in the other order. -/
theorem rotr32_eq_rotl32_sub (x : Word) {n : Nat} (h : n ≤ 32) : rotr32 x n = rotl32 x (32 - n) := by
  rw [rotr32, rotl32, Nat.sub_sub_self h, BitVec.or_comm]

/-- Settles O38, by the equation of each rotation with its library form; `0 < n` is not needed. -/
theorem rotationsAreRotations : Obligations.RotationsAreRotations := fun x _ _ h =>
  ⟨rotl32_eq_rotateLeft x h, rotr32_eq_rotateRight x h, rotr32_eq_rotl32_sub x h.le⟩

end Sys2Proof.Machine
end

section
/-! What a step, a command and a window write do, said once for the statements about the state. -/

namespace Sys2Proof.Machine

open Sys2Proof.Claims

/-! ## Steps -/

theorem step_of_nextMove {s : State} {m : HostMove} (hm : nextMove s m) : step s = advance (runMove m s) := by
  have hf : fetch s = some m := hm
  rw [step, hf]

/-- What a step that answers a next state did with the move known to be next. -/
theorem step_next_of_nextMove {s t : State} {m : HostMove} (hm : nextMove s m) (h : step s = .next t) :
    ∃ u, runMove m s = .next u ∧ t = { u with pc := u.pc + 1 } := by
  obtain ⟨m', u, hm', hu, ht⟩ := step_next_cases h
  obtain rfl : m' = m := Option.some.inj (hm'.symm.trans hm)
  exact ⟨u, hu, ht⟩

/-! ## Moves -/

section
variable {width : Width} {off : Nat} {v : Word} {s : State}

theorem runMove_rd_refused {r : Refusal} (h : transactionRefusal width off = some r) :
    runMove (.rd width off) s = .refused r := by
  simp [runMove, hostAction, h]

theorem runMove_wr_refused {r : Refusal} (h : transactionRefusal width off = some r) :
    runMove (.wr width off v) s = .refused r := by
  simp [runMove, hostAction, h]

theorem runMove_rd (h : transactionRefusal width off = none) :
    runMove (.rd width off) s = .next (s.reply (readOffset s off)) := by
  simp [runMove, hostAction, h]

/-- A write to any offset but that of `CMD`. -/
theorem runMove_wr (h : transactionRefusal width off = none) (hoff : off ≠ 4) :
    runMove (.wr width off v) s = .next (writeOffset s off v) := by
  simp [runMove, hostAction, h, WindowReg.offset, hoff]

theorem runMove_wr_cmd (h : transactionRefusal width 4 = none) : runMove (.wr width 4 v) s = runCommand v s := by
  simp [runMove, hostAction, h, WindowReg.offset]

end

/-! ## Commands -/

theorem bsrdwChecks_pass {bs : BsReg} {idx : BitVec 8} {s : State} :
    firstFailure (bsrdwChecks bs idx s) = none ↔ s.bv[bs] = true ∧ idx.toNat < 16 := by
  rw [firstFailure_eq_none_iff]
  simp [bsrdwChecks]

theorem chachaChecks_pass {bs : BsReg} {s : State} : firstFailure (chachaChecks bs s) = none ↔ s.bv[bs] = true := by
  rw [firstFailure_eq_none_iff]
  simp [chachaChecks]

theorem hrdwChecks_pass {idx : BitVec 8} {s : State} :
    firstFailure (hrdwChecks idx s) = none ↔ s.hv = true ∧ idx.toNat < 8 := by
  rw [firstFailure_eq_none_iff]
  simp [hrdwChecks]

theorem b2scompChecks_pass {bm : BsReg} {s : State} :
    firstFailure (b2scompChecks bm s) = none ↔ s.hv = true ∧ s.bv[bm] = true := by
  rw [firstFailure_eq_none_iff]
  simp [b2scompChecks]

/-- A decoded command always answers a next state. -/
theorem exec_next (i : Instr) (s : State) : ∃ t, exec i s = .next t :=
  exec_eq_runChecked i s ▸ runChecked_next _ _ _

/-- Everything a word written to `CMD` can do: its command, or `IllegalCommand` (R92, R238). -/
theorem runCommand_next_cases {w : Word} {s t : State} (h : runCommand w s = .next t) :
    (∃ i, decode w = .ok i ∧ exec i s = .next t) ∨ t = s.raise .illegalCommand := by
  unfold runCommand at h
  cases hd : decode w with
  | ok i => exact .inl ⟨i, rfl, by simpa [hd] using h⟩
  | error e => exact .inr (by simpa [hd, illegalCommand] using h.symm)

theorem runCommand_next (w : Word) (s : State) : ∃ t, runCommand w s = .next t := by
  unfold runCommand
  cases decode w with
  | ok i => exact exec_next i s
  | error e => exact ⟨_, rfl⟩

/-- A change `f` of the state that a command's checks do not see, and that commutes with its endings, commutes with the
command. -/
theorem exec_commutes {f : State → State} {i : Instr} {s : State} (hchecks : commandChecks i (f s) = commandChecks i s)
    (hraise : ∀ e, (f s).raise e = f (s.raise e))
    (heffect : firstFailure (commandChecks i s) = none → (commandEffect i (f s)).complete = f (commandEffect i s).complete) :
    exec i (f s) = onNext f (exec i s) := by
  cases hc : firstFailure (commandChecks i s) with
  | none => rw [exec_of_pass hc, exec_of_pass (hchecks ▸ hc), heffect hc, onNext]
  | some e => rw [exec_of_fail hc, exec_of_fail (hchecks ▸ hc), hraise, onNext]

/-- A command that ended without an error had its effect. -/
theorem exec_success {i : Instr} {s t : State} (h : exec i s = .next t) (ht : t.err = none) :
    t = (commandEffect i s).complete := by
  obtain ⟨e, -, rfl⟩ | ⟨-, rfl⟩ := exec_next_cases h
  · simp at ht
  · rfl

/-- A word written to `CMD` that ended in an error raised it and did nothing else. -/
theorem runCommand_failure {w : Word} {s t : State} (h : runCommand w s = .next t) (ht : t.err ≠ none) :
    ∃ e, t = s.raise e := by
  obtain ⟨i, -, hi⟩ | rfl := runCommand_next_cases h
  · obtain ⟨e, -, rfl⟩ | ⟨-, rfl⟩ := exec_next_cases hi
    · exact ⟨e, rfl⟩
    · simp at ht
  · exact ⟨_, rfl⟩

/-! ## Window writes -/

/-- The register at an offset stands at that offset. -/
theorem offset_of_registerAt {off : Nat} {r : WindowReg} (h : registerAt off = some r) : r.offset = off := by
  simpa using List.find?_some h

/-- A window write leaves what no register at its offset changes. -/
theorem writeOffset_keeps {α : Type} (f : State → α) {s : State} {off : Nat} {w : Word}
    (hr : ∀ r : WindowReg, r.offset = off → f (writeReg s w r) = f s) : f (writeOffset s off w) = f s := by
  unfold writeOffset
  cases h : registerAt off with
  | none => rfl
  | some r => exact hr r (offset_of_registerAt h)

section
variable (s : State) (w : Word) (r : WindowReg)

@[simp] theorem writeReg_bv : (writeReg s w r).bv = s.bv := by cases r <;> rfl
@[simp] theorem writeReg_hv : (writeReg s w r).hv = s.hv := by cases r <;> rfl
@[simp] theorem writeReg_data : (writeReg s w r).data = s.data := by cases r <;> rfl
@[simp] theorem writeReg_eq : (writeReg s w r).eq = s.eq := by cases r <;> rfl
@[simp] theorem writeReg_program : (writeReg s w r).program = s.program := by cases r <;> rfl
@[simp] theorem writeReg_pc : (writeReg s w r).pc = s.pc := by cases r <;> rfl

theorem writeReg_sticky (h : r ≠ .status) : (writeReg s w r).sticky = s.sticky := by
  cases r with
  | status => exact absurd rfl h
  | _ => rfl

end

/-- A move that is no reset leaves what `reply`, the host's store, its window write and its command leave. -/
theorem runMove_keeps {α : Type} (f : State → α) {m : HostMove} {s t : State} (hm : m.isReset = false)
    (hreply : ∀ w, f (s.reply w) = f s) (hmem : ∀ m', f (s.writeMem m') = f s)
    (hwrite : ∀ off v, m = .wr .word off v → off ≠ 4 → f (writeOffset s off v) = f s)
    (hcommand : ∀ w, m = .wr .word 4 w → runCommand w s = .next t → f t = f s)
    (h : runMove m s = .next t) : f t = f s := by
  obtain ⟨off, -, -, -, rfl⟩ | ⟨off, v, rfl, -, -, hoff, rfl⟩ | ⟨w, rfl, hw⟩ | ⟨a, -, rfl⟩ | ⟨a, v, -, rfl⟩ |
    ⟨rfl, -⟩ | ⟨w, rfl, -⟩ := runMove_next_cases h
  · exact hreply _
  · exact hwrite off v rfl hoff
  · exact hcommand w rfl hw
  · exact hreply _
  · exact hmem _
  · cases hm
  · cases hm

end Sys2Proof.Machine
end

section
/-! What stands behind a clear valid bit: taking it out commutes with a step (R21, R34, R36). -/

namespace Sys2Proof.Machine

variable (s : State)

@[simp] theorem visibleBlock_true (w : Block) : visibleBlock true w = w := rfl
@[simp] theorem visibleChain_true (w : Chain) : visibleChain true w = w := rfl

/-- A valid register is seen as it is. -/
theorem State.visible_b_of_valid {s : State} {r : BsReg} (h : s.bv[r] = true) : s.visible.b[r] = s.b[r] := by
  have h' : s.bv[r.val] = true := h
  simp [State.visible, h']

theorem State.visible_h_of_valid {s : State} (h : s.hv = true) : s.visible.h = s.h := by
  simp [State.visible, h]

/-- A written register is valid, so that nothing of it is hidden. -/
theorem State.visible_writeBlock (r : BsReg) (w : Block) : (s.writeBlock r w).visible = s.visible.writeBlock r w := by
  have hb : Vector.zipWith visibleBlock (s.bv.set r true) (s.b.set r w) = (Vector.zipWith visibleBlock s.bv s.b).set r w := by
    ext1 i hi
    by_cases hr : r.val = i
    · subst hr
      simp
    · simp [Vector.getElem_set_ne, hr]
  simp only [State.visible, State.writeBlock, hb]

theorem State.visible_writeChain (w : Chain) : (s.writeChain w).visible = s.visible.writeChain w := rfl

theorem State.visible_raise (e : CmdError) : s.visible.raise e = (s.raise e).visible := rfl

/-- After reset there is nothing hidden left to take out: the model's words there are zeros (log 4). -/
theorem State.visible_resetRegisters : s.visible.resetRegisters = s.resetRegisters.visible := by
  have hb : Vector.zipWith visibleBlock State.reset.bv State.reset.b = State.reset.b := by
    ext1 i hi
    simp [State.reset, visibleBlock]
  simp only [State.visible, State.resetRegisters, hb]
  rfl

theorem commandChecks_visible (i : Instr) : commandChecks i s.visible = commandChecks i s := by
  cases i <;> rfl

/-- A command that passed its checks reads nothing hidden. -/
theorem commandEffect_visible {i : Instr} {s : State} (hc : firstFailure (commandChecks i s) = none) :
    commandEffect i s.visible = (commandEffect i s).visible := by
  cases i with
  | bsldw bd => exact (s.visible_writeBlock ..).symm
  | bsldb bd k => exact (s.visible_writeBlock ..).symm
  | bsrdw bs idx =>
    obtain ⟨hbs, -⟩ := bsrdwChecks_pass.1 hc
    rw [commandEffect, State.visible_b_of_valid hbs]
    rfl
  | bsstb bs k =>
    obtain ⟨⟨hbs, -⟩, -⟩ := bsstbChecks_pass.1 hc
    rw [commandEffect, State.visible_b_of_valid hbs]
    rfl
  | vcopy ka kb => rfl
  | veq ka kb => rfl
  | vxor ka kb =>
    rw [commandEffect, commandEffect, apply_ite State.visible]
    rfl
  | chacha bd bs ndr ff =>
    have hbs := chachaChecks_pass.1 hc
    rw [commandEffect, State.visible_b_of_valid hbs]
    exact (s.visible_writeBlock ..).symm
  | ctrinc => rfl
  | hldw => exact (s.visible_writeChain _).symm
  | hrdw idx =>
    obtain ⟨hh, -⟩ := hrdwChecks_pass.1 hc
    rw [commandEffect, State.visible_h_of_valid hh]
    rfl
  | b2scomp bm nr =>
    obtain ⟨hh, hbm⟩ := b2scompChecks_pass.1 hc
    rw [commandEffect, State.visible_h_of_valid hh, State.visible_b_of_valid hbm]
    exact (s.visible_writeChain _).symm

theorem exec_visible (i : Instr) : exec i s.visible = onNext State.visible (exec i s) :=
  exec_commutes (commandChecks_visible s i) s.visible_raise fun hc => congrArg State.complete (commandEffect_visible hc)

theorem runCommand_visible (w : Word) : runCommand w s.visible = onNext State.visible (runCommand w s) := by
  unfold runCommand
  cases decode w with
  | ok i => exact exec_visible s i
  | error e => rfl

theorem writeReg_visible (w : Word) (r : WindowReg) : writeReg s.visible w r = (writeReg s w r).visible := by
  cases r <;> rfl

theorem writeOffset_visible (off : Nat) (w : Word) : writeOffset s.visible off w = (writeOffset s off w).visible := by
  unfold writeOffset
  cases registerAt off with
  | none => rfl
  | some r => exact writeReg_visible s w r

theorem readOffset_visible (off : Nat) : readOffset s.visible off = readOffset s off := by
  unfold readOffset
  cases registerAt off with
  | none => rfl
  | some r => cases r <;> rfl

theorem destinationRange_visible (i : Instr) : destinationRange i s.visible = destinationRange i s := by
  cases i <;> rfl

theorem abandonStores_visible (w : Word) : s.visible.abandonStores w = (s.abandonStores w).visible := by
  unfold State.abandonStores
  cases decode w with
  | error e => rfl
  | ok i =>
    simp only [commandChecks_visible, destinationRange_visible]
    cases firstFailure (commandChecks i s) with
    | some e => rfl
    | none => cases destinationRange i s <;> rfl

theorem runMove_visible (m : HostMove) : runMove m s.visible = onNext State.visible (runMove m s) := by
  cases m with
  | rd width off =>
    cases hr : transactionRefusal width off with
    | some r => rw [runMove_rd_refused hr, runMove_rd_refused hr, onNext]
    | none =>
      rw [runMove_rd hr, runMove_rd hr, readOffset_visible]
      rfl
  | wr width off v =>
    cases hr : transactionRefusal width off with
    | some r => rw [runMove_wr_refused hr, runMove_wr_refused hr, onNext]
    | none =>
      by_cases hoff : off = 4
      · subst hoff
        rw [runMove_wr_cmd hr, runMove_wr_cmd hr, runCommand_visible]
      · rw [runMove_wr hr hoff, runMove_wr hr hoff, writeOffset_visible, onNext]
  | load a => rfl
  | store a v => rfl
  | reset => exact congrArg Host.Outcome.next s.visible_resetRegisters
  | resetDuring w =>
    have hw : (s.visible.abandonStores w).resetRegisters = (s.abandonStores w).resetRegisters.visible := by
      rw [abandonStores_visible, State.visible_resetRegisters]
    exact congrArg Host.Outcome.next hw

/-- A step cannot tell a state from the one with everything hidden taken out. -/
theorem step_visible : step s.visible = onNext State.visible (step s) := by
  have hf : fetch s.visible = fetch s := rfl
  unfold step
  rw [hf]
  cases fetch s with
  | none => rfl
  | some m =>
    dsimp only
    rw [runMove_visible]
    cases runMove m s <;> rfl

/-- Settles O50: a step commutes with taking out what is hidden, so that equal visible states take the same step. -/
theorem hiddenContentsAreUnobservable : Obligations.HiddenContentsAreUnobservable := by
  intro s t h
  rw [← step_visible s, ← step_visible t, h]

end Sys2Proof.Machine
end

section
/-! What a command leaves unchanged: the access matrix of R37 and R38, and its flags and valid bits. -/

namespace Sys2Proof.Machine

open Sys2Proof.Claims

theorem State.writeBlock_b_of_ne (s : State) {r q : BsReg} (w : Block) (h : q ≠ r) : (s.writeBlock r w).b[q] = s.b[q] :=
  Vector.getElem_set_ne r.isLt q.isLt fun hv => h (Fin.ext hv).symm

theorem State.writeBlock_bv_of_ne (s : State) {r q : BsReg} (w : Block) (h : q ≠ r) : (s.writeBlock r w).bv[q] = s.bv[q] :=
  Vector.getElem_set_ne r.isLt q.isLt fun hv => h (Fin.ext hv).symm

/-- Every effect is one write, to what the columns of R37 name. -/
theorem commandEffect_cases (i : Instr) (s : State) :
    (∃ r w, blockDestination i = some r ∧ commandEffect i s = s.writeBlock r w) ∨
    (∃ w, writesChain i ∧ commandEffect i s = s.writeChain w) ∨
    (∃ w, writesData i ∧ commandEffect i s = s.writeData w) ∨
    (∃ m, writesMem i ∧ commandEffect i s = s.writeMem m) ∨
    (∃ q, (∃ ka kb, i = .veq ka kb) ∧ commandEffect i s = s.writeEq q) ∨
    (i = .ctrinc ∧ commandEffect i s = { s with ctr := s.ctr + 1#64 }) := by
  cases i with
  | bsldw bd => exact .inl ⟨bd, _, rfl, rfl⟩
  | bsldb bd k => exact .inl ⟨bd, _, rfl, rfl⟩
  | bsrdw bs idx => exact .inr (.inr (.inl ⟨_, .inl ⟨bs, idx, rfl⟩, rfl⟩))
  | bsstb bs k => exact .inr (.inr (.inr (.inl ⟨_, .inl ⟨bs, k, rfl⟩, rfl⟩)))
  | vcopy ka kb => exact .inr (.inr (.inr (.inl ⟨_, .inr (.inl ⟨ka, kb, rfl⟩), rfl⟩)))
  | veq ka kb => exact .inr (.inr (.inr (.inr (.inl ⟨_, ⟨ka, kb, rfl⟩, rfl⟩))))
  | vxor ka kb =>
    refine .inr (.inr (.inr (.inl ?_)))
    by_cases h : coincide (s.startA ka) (s.startB kb) = true
    · exact ⟨s.mem, .inr (.inr ⟨ka, kb, rfl⟩), if_pos h⟩
    · exact ⟨_, .inr (.inr ⟨ka, kb, rfl⟩), if_neg h⟩
  | chacha bd bs ndr ff => exact .inl ⟨bd, _, rfl, rfl⟩
  | ctrinc => exact .inr (.inr (.inr (.inr (.inr ⟨rfl, rfl⟩))))
  | hldw => exact .inr (.inl ⟨_, .inl rfl, rfl⟩)
  | hrdw idx => exact .inr (.inr (.inl ⟨_, .inr ⟨idx, rfl⟩, rfl⟩))
  | b2scomp bm nr => exact .inr (.inl ⟨_, .inr ⟨bm, nr, rfl⟩, rfl⟩)

/-- Settles O13: a failing command changes `ERR` and `STICKY` alone, and a completed one makes its one write and clears `ERR`. -/
theorem commandFrame : Obligations.CommandFrame := by
  intro i s t h
  obtain ⟨e, -, rfl⟩ | ⟨-, rfl⟩ := exec_next_cases h
  · simp
  · obtain ⟨r, w, hi, he⟩ | ⟨w, hi, he⟩ | ⟨w, hi, he⟩ | ⟨m, hi, he⟩ | ⟨q, hi, he⟩ | ⟨hi, he⟩ := 
      commandEffect_cases i s <;> rw [he]
    · have hframe : ∀ q, blockDestination i ≠ some q →
          (s.writeBlock r w).complete.b[q] = s.b[q] ∧ (s.writeBlock r w).complete.bv[q] = s.bv[q] := by
        intro q hq
        have hqr : q ≠ r := fun hqr => hq (hqr ▸ hi)
        exact ⟨s.writeBlock_b_of_ne w hqr, s.writeBlock_bv_of_ne w hqr⟩
      exact ⟨hframe, by simp⟩
    · simp [hi]
    · simp [hi]
    · simp [hi]
    · simp [hi]
    · simp [hi]

theorem exec_keeps_program_pc {i : Instr} {s t : State} (h : exec i s = .next t) : t.program = s.program ∧ t.pc = s.pc := by
  obtain ⟨-, -, -, -, -, -, -, -, -, -, -, -, hprogram, hpc, -⟩ := commandFrame i s t h
  exact ⟨hprogram, hpc⟩

theorem exec_keeps_data {i : Instr} {s t : State} (hi : ¬ writesData i) (h : exec i s = .next t) : t.data = s.data := by
  obtain ⟨-, -, -, hdata, -⟩ := commandFrame i s t h
  exact hdata hi

theorem exec_keeps_eq {i : Instr} {s t : State} (hi : ¬ ∃ ka kb, i = .veq ka kb) (h : exec i s = .next t) : t.eq = s.eq := by
  obtain ⟨-, -, -, -, heq, -⟩ := commandFrame i s t h
  exact heq hi

theorem commandEffect_sticky (i : Instr) (s : State) : (commandEffect i s).sticky = s.sticky := by
  obtain ⟨r, w, -, he⟩ | ⟨w, -, he⟩ | ⟨w, -, he⟩ | ⟨m, -, he⟩ | ⟨q, -, he⟩ | ⟨-, he⟩ :=
    commandEffect_cases i s <;> rw [he] <;> rfl

/-- A command may set a sticky bit and clears none. -/
theorem exec_sticky {i : Instr} {s t : State} (h : exec i s = .next t) : ∃ mask, t.sticky = s.sticky ||| mask := by
  obtain ⟨e, -, rfl⟩ | ⟨-, rfl⟩ := exec_next_cases h
  · exact ⟨_, rfl⟩
  · exact ⟨0#5, by simp [commandEffect_sticky]⟩

/-- A command may set a valid bit and clears none. -/
theorem exec_keeps_valid {i : Instr} {s t : State} (h : exec i s = .next t) :
    (∀ r : BsReg, s.bv[r] = true → t.bv[r] = true) ∧ (s.hv = true → t.hv = true) := by
  obtain ⟨e, -, rfl⟩ | ⟨-, rfl⟩ := exec_next_cases h
  · exact ⟨fun _ => id, id⟩
  · obtain ⟨r, w, -, he⟩ | ⟨w, -, he⟩ | ⟨w, -, he⟩ | ⟨m, -, he⟩ | ⟨q, -, he⟩ | ⟨-, he⟩ :=
      commandEffect_cases i s <;> rw [he]
    · refine ⟨fun q hq => ?_, id⟩
      by_cases hqr : q = r
      · subst hqr
        exact Vector.getElem_set_self _
      · exact (s.writeBlock_bv_of_ne w hqr).trans hq
    · exact ⟨fun _ => id, fun _ => rfl⟩
    all_goals exact ⟨fun _ => id, id⟩

end Sys2Proof.Machine
end

section
/-! What every step leaves unchanged: `pc`, the sticky bits, the valid bits (R21, R22, R27, R34, R237). -/

namespace Sys2Proof.Machine

open Sys2Proof.Claims

theorem runCommand_keeps_program_pc {w : Word} {s t : State} (h : runCommand w s = .next t) :
    t.program = s.program ∧ t.pc = s.pc := by
  obtain ⟨i, -, hi⟩ | rfl := runCommand_next_cases h
  · exact exec_keeps_program_pc hi
  · exact ⟨rfl, rfl⟩

theorem abandonStores_keeps_program_pc (s : State) (w : Word) :
    (s.abandonStores w).program = s.program ∧ (s.abandonStores w).pc = s.pc := by
  obtain h | ⟨i, a, n, -, -, -, h⟩ := abandonStores_cases s w <;> rw [h] <;> exact ⟨rfl, rfl⟩

/-- No move touches the host's program or its place in it; `advance` alone moves `pc` on. -/
theorem runMove_keeps_program_pc {m : HostMove} {s t : State} (h : runMove m s = .next t) :
    t.program = s.program ∧ t.pc = s.pc := by
  obtain ⟨off, -, -, -, rfl⟩ | ⟨off, v, -, -, -, -, rfl⟩ | ⟨w, -, hw⟩ | ⟨a, -, rfl⟩ | ⟨a, v, -, rfl⟩ | ⟨-, rfl⟩ |
    ⟨w, -, rfl⟩ := runMove_next_cases h
  · exact ⟨rfl, rfl⟩
  · exact ⟨writeOffset_keeps State.program fun _ _ => writeReg_program ..,
      writeOffset_keeps State.pc fun _ _ => writeReg_pc ..⟩
  · exact runCommand_keeps_program_pc hw
  · exact ⟨rfl, rfl⟩
  · exact ⟨rfl, rfl⟩
  · exact ⟨rfl, rfl⟩
  · exact abandonStores_keeps_program_pc s w

/-- A move has a next state or is refused: no move faults. -/
theorem runMove_ne_fault (m : HostMove) (s : State) (r : Fault) : runMove m s ≠ .fault r := by
  cases m with
  | rd width off =>
    cases hr : transactionRefusal width off with
    | some r => simp [runMove_rd_refused hr]
    | none => simp [runMove_rd hr]
  | wr width off v =>
    cases hr : transactionRefusal width off with
    | some r => simp [runMove_wr_refused hr]
    | none =>
      by_cases hoff : off = 4
      · subst hoff
        obtain ⟨t, ht⟩ := runCommand_next v s
        simp [runMove_wr_cmd hr, ht]
      · simp [runMove_wr hr hoff]
  | load a => nofun
  | store a v => nofun
  | reset => nofun
  | resetDuring w => nofun

/-- The run ends exactly when there is no next move. -/
theorem step_fault_iff (s : State) : step s = .fault .runEnded ↔ fetch s = none := by
  unfold step
  cases fetch s with
  | none => simp
  | some m =>
    cases hr : runMove m s with
    | next t => simp [hr, advance]
    | fault r => exact absurd hr (runMove_ne_fault m s r)
    | refused r => simp [hr, advance]

/-- Settles O7, from what a step does and the one fault there is. -/
theorem moveAdvancesPcByOne : Obligations.MoveAdvancesPcByOne := by
  refine ⟨rfl, fun s t h => ?_, fun s => (step_fault_iff s).trans List.getElem?_eq_none_iff⟩
  obtain ⟨m, u, -, hu, rfl⟩ := step_next_cases h
  obtain ⟨hprogram, hpc⟩ := runMove_keeps_program_pc hu
  exact ⟨congrArg (· + 1) hpc, hprogram⟩

theorem runCommand_sticky {w : Word} {s t : State} (h : runCommand w s = .next t) : ∃ mask, t.sticky = s.sticky ||| mask := by
  obtain ⟨i, -, hi⟩ | rfl := runCommand_next_cases h
  · exact exec_sticky hi
  · exact ⟨_, rfl⟩

/-- A write to `STATUS` clears no sticky bit but those written as 1. -/
theorem clearSticky_getLsbD {s : State} {w : Word} {c : Nat} (hw : w.getLsbD (8 + c) = false) :
    (s.clearSticky w).sticky.getLsbD c = s.sticky.getLsbD c := by
  by_cases hc : c < 5
  · simp [hw, hc]
  · simp [BitVec.getLsbD_of_ge _ _ (Nat.le_of_not_lt hc)]

/-- Settles O12: of the moves that are no reset only a window write to `STATUS` clears sticky bits, and of those only the bits
written as 1. -/
theorem stickyClearedOnlyByHostOrReset : Obligations.StickyClearedOnlyByHostOrReset := by
  intro s t m c hm h hs ht
  obtain ⟨u, hu, rfl⟩ := step_next_of_nextMove hm h
  by_contra hno
  rw [not_or, Bool.not_eq_true] at hno
  obtain ⟨hreset, hstatus⟩ := hno
  have hkept : u.sticky.getLsbD c = s.sticky.getLsbD c := by
    refine runMove_keeps (·.sticky.getLsbD c) hreset (fun _ => rfl) (fun _ => rfl) (fun off v hv _ => ?_)
      (fun w _ hw => ?_) hu
    · refine writeOffset_keeps (·.sticky.getLsbD c) fun r hr => ?_
      by_cases hrs : r = .status
      · subst hrs hr
        exact clearSticky_getLsbD (by simpa using fun hc => hstatus ⟨v, hv, hc⟩)
      · exact congrArg (·.getLsbD c) (writeReg_sticky s v r hrs)
    · obtain ⟨mask, hmask⟩ := runCommand_sticky hw
      simp [hmask, hs]
  exact Bool.false_ne_true (ht.symm.trans (hkept.trans hs))

theorem runCommand_keeps_valid {w : Word} {s t : State} (h : runCommand w s = .next t) :
    (∀ r : BsReg, s.bv[r] = true → t.bv[r] = true) ∧ (s.hv = true → t.hv = true) := by
  obtain ⟨i, -, hi⟩ | rfl := runCommand_next_cases h
  · exact exec_keeps_valid hi
  · exact ⟨fun _ => id, id⟩

/-- Settles O51: of the moves that are no reset only a command writes valid bits, and it only sets them. -/
theorem validBitsClearedOnlyByReset : Obligations.ValidBitsClearedOnlyByReset := by
  intro s t m hm hreset h
  obtain ⟨u, hu, rfl⟩ := step_next_of_nextMove hm h
  refine ⟨fun r hr => ?_, fun hh => ?_⟩
  · refine (runMove_keeps (·.bv[r]) hreset (fun _ => rfl) (fun _ => rfl) (fun off v _ _ => ?_) (fun w _ hw => ?_) hu).trans hr
    · exact writeOffset_keeps (·.bv[r]) fun q _ => congrArg (·[r]) (writeReg_bv s v q)
    · exact ((runCommand_keeps_valid hw).1 r hr).trans hr.symm
  · refine (runMove_keeps (·.hv) hreset (fun _ => rfl) (fun _ => rfl) (fun off v _ _ => ?_) (fun w _ hw => ?_) hu).trans hh
    · exact writeOffset_keeps (·.hv) fun q _ => writeReg_hv s v q
    · exact ((runCommand_keeps_valid hw).2 hh).trans hh.symm

end Sys2Proof.Machine
end

section
/-! The one flag and `DATA`: what writes them and with what (R23, R28). -/

namespace Sys2Proof.Machine

open Sys2Proof.Claims

/-- Two reads of `n` bytes give the same list exactly when they agree byte by byte (R61). -/
theorem Memory.readBytes_eq_iff (m : Memory) (n a b : Nat) :
    m.readBytes a n = m.readBytes b n ↔ ∀ i < n, m.readByte (a + i) = m.readByte (b + i) := by
  induction n generalizing a b with
  | zero => simp [Memory.readBytes]
  | succ n ih =>
    rw [Nat.forall_lt_succ_left]
    simp [Memory.readBytes, ih, Nat.add_assoc, Nat.add_comm 1]

/-- The value of `EQ` (R146, R147): both buffers are empty, or neither is and the bytes agree. -/
theorem equalsResult_eq_true_iff (m : Memory) (lenA lenB : Word) (sa sb n : Nat) :
    equalsResult m lenA lenB sa sb n = true ↔
      (lenA.toNat = 0 ∧ lenB.toNat = 0) ∨
      (lenA.toNat ≠ 0 ∧ lenB.toNat ≠ 0 ∧ ∀ i < n, m.readByte (sa + i) = m.readByte (sb + i)) := by
  by_cases hempty : lenA.toNat = 0 ∨ lenB.toNat = 0
  · rw [equalsResult, if_pos hempty, decide_eq_true_iff]
    exact ⟨.inl, fun h => h.resolve_right fun ⟨ha, hb, _⟩ => hempty.elim ha hb⟩
  · obtain ⟨ha, hb⟩ := not_or.1 hempty
    rw [equalsResult_nonempty ha hb, beq_iff_eq, Memory.readBytes_eq_iff]
    simp [ha, hb]

/-- No effect but that of `VEQ` depends on `EQ` or writes it. -/
theorem commandEffect_writeEq {i : Instr} (hi : ∀ ka kb, i ≠ .veq ka kb) (s : State) (q : Bool) :
    commandEffect i (s.writeEq q) = (commandEffect i s).writeEq q := by
  cases i with
  | veq ka kb => exact absurd rfl (hi ka kb)
  | vxor ka kb =>
    rw [commandEffect, commandEffect, apply_ite (State.writeEq · q)]
    rfl
  | _ => rfl

theorem commandChecks_writeEq (i : Instr) (s : State) (q : Bool) : commandChecks i (s.writeEq q) = commandChecks i s := by
  cases i <;> rfl

theorem exec_writeEq {i : Instr} (hi : ∀ ka kb, i ≠ .veq ka kb) (s : State) (q : Bool) :
    exec i (s.writeEq q) = onNext (State.writeEq · q) (exec i s) :=
  exec_commutes (f := (State.writeEq · q)) (commandChecks_writeEq i s q) (fun _ => rfl) fun _ =>
    congrArg State.complete (commandEffect_writeEq hi s q)

theorem runCommand_keeps_eq {w : Word} {s t : State} (h : runCommand w s = .next t)
    (hw : t.err ≠ none ∨ ∀ ka kb, decode w ≠ .ok (.veq ka kb)) : t.eq = s.eq := by
  obtain herr | hdecode := hw
  · obtain ⟨e, rfl⟩ := runCommand_failure h herr
    rfl
  · obtain ⟨i, hd, hi⟩ | rfl := runCommand_next_cases h
    · exact exec_keeps_eq (fun ⟨ka, kb, hv⟩ => hdecode ka kb (hv ▸ hd)) hi
    · rfl

theorem runCommand_keeps_data {w : Word} {s t : State} (h : runCommand w s = .next t)
    (hw : t.err ≠ none ∨ ∀ i, decode w = .ok i → ¬ writesData i) : t.data = s.data := by
  obtain herr | hdecode := hw
  · obtain ⟨e, rfl⟩ := runCommand_failure h herr
    rfl
  · obtain ⟨i, hd, hi⟩ | rfl := runCommand_next_cases h
    · exact exec_keeps_data (hdecode i hd) hi
    · rfl

/-- A move that is no reset and no command leaves what no register of the window, no reply and no store changes. -/
theorem step_keeps_of_no_command {α : Type} (f : State → α) {s t : State} {m : HostMove} (hm : nextMove s m)
    (hreset : m.isReset = false) (hcmd : ∀ w, m ≠ .wr .word 4 w) (hreply : ∀ w, f (s.reply w) = f s)
    (hmem : ∀ m', f (s.writeMem m') = f s) (hwrite : ∀ v r, f (writeReg s v r) = f s)
    (hpc : ∀ (u : State) (n : Nat), f { u with pc := n } = f u) (h : step s = .next t) : f t = f s := by
  obtain ⟨u, hu, rfl⟩ := step_next_of_nextMove hm h
  rw [hpc]
  exact runMove_keeps f hreset hreply hmem (fun off v _ _ => writeOffset_keeps f fun r _ => hwrite v r)
    (fun w hw _ => absurd hw (hcmd w)) hu

end Sys2Proof.Machine
end

section
/-! The window: where its registers stand, what a read returns and a write does, in the spec's own numbers (R24, R27, R91). -/

namespace Sys2Proof.Machine

open Sys2Proof.Claims

/-! ## Words in parts -/

theorem toNat_append_eq_add {m n : Nat} (x : BitVec m) (y : BitVec n) : (x ++ y).toNat = x.toNat * 2 ^ n + y.toNat := by
  rw [BitVec.toNat_append, ← Nat.shiftLeft_add_eq_or_of_lt y.isLt, Nat.shiftLeft_eq]

theorem lo32_eq_ofNat (q : DWord) : lo32 q = BitVec.ofNat 32 q.toNat := by
  apply BitVec.eq_of_toNat_eq
  simp [lo32]

theorem hi32_eq_ofNat (q : DWord) : hi32 q = BitVec.ofNat 32 (q.toNat / 2 ^ 32) := by
  apply BitVec.eq_of_toNat_eq
  simp [hi32, Nat.shiftRight_eq_div_pow]

theorem pair64_hi32 (q : DWord) (w : Word) : pair64 (hi32 q) w = BitVec.ofNat 64 (q.toNat / 2 ^ 32 * 2 ^ 32 + w.toNat) := by
  apply BitVec.eq_of_toNat_eq
  rw [pair64, toNat_append_eq_add, hi32_eq_ofNat, BitVec.toNat_ofNat, BitVec.toNat_ofNat]
  omega

theorem pair64_lo32 (q : DWord) (w : Word) : pair64 w (lo32 q) = BitVec.ofNat 64 (w.toNat * 2 ^ 32 + q.toNat % 2 ^ 32) := by
  apply BitVec.eq_of_toNat_eq
  rw [pair64, toNat_append_eq_add, lo32_eq_ofNat, BitVec.toNat_ofNat, BitVec.toNat_ofNat]
  omega

/-! ## `STATUS` and `BUFV` (R27, R32) -/

theorem errField_toNat_some (e : CmdError) : (errField (some e)).toNat = code e := by
  cases e <;> rfl

theorem bvalid_toNat (s : State) :
    s.bvalid.toNat = (s.bv[3]).toNat * 8 + (s.bv[2]).toNat * 4 + (s.bv[1]).toNat * 2 + (s.bv[0]).toNat := by
  simp only [State.bvalid, toNat_append_eq_add, BitVec.toNat_ofBool]
  omega

theorem bufv_toNat (s : State) :
    s.bufv.toNat =
      ((s.buf[3]).v).toNat * 8 + ((s.buf[2]).v).toNat * 4 + ((s.buf[1]).v).toNat * 2 + ((s.buf[0]).v).toNat := by
  simp only [State.bufv, toNat_append_eq_add, BitVec.toNat_ofBool]
  omega

theorem statusWord_toNat (s : State) :
    s.statusWord.toNat =
      s.hv.toNat * 2 ^ 20 + s.bvalid.toNat * 2 ^ 16 + s.sticky.toNat * 2 ^ 8 + s.eq.toNat * 2 ^ 4 + (errField s.err).toNat := by
  simp only [State.statusWord, toNat_append_eq_add, BitVec.toNat_ofBool, BitVec.toNat_ofNat]
  omega

/-- Settles O53: the fields of the sum of `statusWord_toNat`, which do not reach into each other. -/
theorem statusFieldsRead : Obligations.StatusFieldsRead := by
  intro s
  have hq := s.eq.toNat_lt
  have hh := s.hv.toNat_lt
  have h0 := s.bv[0].toNat_lt
  have h1 := s.bv[1].toNat_lt
  have h2 := s.bv[2].toNat_lt
  have h3 := s.bv[3].toNat_lt
  have hs := s.sticky.isLt
  have he := (errField s.err).isLt
  simp only [bits, statusWord_toNat, bvalid_toNat]
  refine ⟨.trans (b := (errField s.err).toNat) (by omega) ?_, by omega, by omega, by omega, by omega, fun r => ?_,
    by omega, by omega⟩
  · cases s.err with
    | none => rfl
    | some e => exact errField_toNat_some e
  · fin_cases r <;> simp <;> omega

/-! ## Offsets (R24) -/

/-- Looking a register up at its own offset finds it, so that no two registers share one. -/
@[simp] theorem registerAt_offset (r : WindowReg) : registerAt r.offset = some r := by
  cases r with
  | bufBase k => revert k; decide
  | bufLen k => revert k; decide
  | win i => revert i; decide
  | _ => rfl

theorem offset_injective {r q : WindowReg} (h : q.offset = r.offset) : q = r := by
  have hq := registerAt_offset q
  rw [h, registerAt_offset] at hq
  exact (Option.some.inj hq).symm

theorem offset_aligned (r : WindowReg) : r.offset % 4 = 0 ∧ r.offset + 4 ≤ 256 := by
  cases r with
  | bufBase k => simp only [WindowReg.offset]; omega
  | bufLen k => simp only [WindowReg.offset]; omega
  | win i => simp only [WindowReg.offset]; omega
  | _ => decide

/-- Settles O54. -/
theorem windowOffsetsNameOneRegister : Obligations.WindowOffsetsNameOneRegister := fun r =>
  ⟨registerAt_offset r, (offset_aligned r).1, (offset_aligned r).2, fun _ => offset_injective⟩

theorem registerAt_reserved {off : Nat} (h : reservedOffset off) : registerAt off = none := by
  cases hr : registerAt off with
  | none => rfl
  | some r =>
    have hoff := offset_of_registerAt hr
    obtain ⟨-, h⟩ := h
    cases r <;> simp only [WindowReg.offset] at hoff <;> omega

/-! ## Reads and writes (R91) -/

theorem readOffset_offset (s : State) (r : WindowReg) : readOffset s r.offset = readReg s r := by
  simp [readOffset]

theorem writeOffset_offset (s : State) (w : Word) (r : WindowReg) : writeOffset s r.offset w = writeReg s w r := by
  simp [writeOffset]

theorem readOffset_reserved (s : State) {off : Nat} (h : reservedOffset off) : readOffset s off = 0#32 := by
  simp [readOffset, registerAt_reserved h]

theorem writeOffset_reserved (s : State) (w : Word) {off : Nat} (h : reservedOffset off) : writeOffset s off w = s := by
  simp [writeOffset, registerAt_reserved h]

/-- An aligned 32-bit access inside the window is not refused (R90). -/
theorem transactionRefusal_word {off : Nat} (h4 : off % 4 = 0) (hend : off + 4 ≤ 256) :
    transactionRefusal .word off = none := by
  rw [transactionRefusal_eq_none_iff]
  simp [Width.isWord, offsetAligned, offsetInWindow, Config.windowSize, h4, hend]

theorem transactionRefusal_offset (r : WindowReg) : transactionRefusal .word r.offset = none :=
  transactionRefusal_word (offset_aligned r).1 (offset_aligned r).2

theorem transactionRefusal_reserved {off : Nat} (h : reservedOffset off) : transactionRefusal .word off = none := by
  obtain ⟨h4, h⟩ := h
  exact transactionRefusal_word h4 (by omega)

theorem step_rd {s : State} {off : Nat} (hm : nextMove s (.rd .word off)) (h : transactionRefusal .word off = none) :
    step s = .next { s with results := s.results ++ [readOffset s off], pc := s.pc + 1 } := by
  rw [step_of_nextMove hm, runMove_rd h]
  rfl

theorem step_wr {s : State} {off : Nat} {w : Word} (hm : nextMove s (.wr .word off w))
    (h : transactionRefusal .word off = none) (hoff : off ≠ 4) :
    step s = .next { writeOffset s off w with pc := s.pc + 1 } := by
  have hpc : (writeOffset s off w).pc = s.pc := writeOffset_keeps State.pc fun r _ => writeReg_pc s w r
  rw [step_of_nextMove hm, runMove_wr h hoff, advance, hpc]

theorem setWidth_bufv (s : State) :
    s.bufv.setWidth 32 =
      BitVec.ofNat 32 ((s.buf[0]).v.toNat + 2 * (s.buf[1]).v.toNat + 4 * (s.buf[2]).v.toNat + 8 * (s.buf[3]).v.toNat) := by
  apply BitVec.eq_of_toNat_eq
  rw [BitVec.toNat_setWidth, BitVec.toNat_ofNat, bufv_toNat]
  congr 1
  omega

/-- The spec's table of reads is the model's registers, each at its offset. -/
theorem windowValues_eq (s : State) : windowValues s = windowRegs.map fun r => (r.offset, readReg s r) := by
  simp only [windowValues, ← lo32_eq_ofNat, ← hi32_eq_ofNat, ← setWidth_bufv]
  rfl

/-- Settles O55: a listed offset is a register's, and a reserved one is none's. -/
theorem windowReadsReturnRegisters : Obligations.WindowReadsReturnRegisters := by
  rintro s off v (hv | ⟨hoff, rfl⟩) hm
  · rw [windowValues_eq, List.mem_map] at hv
    obtain ⟨r, -, hr⟩ := hv
    obtain ⟨rfl, rfl⟩ := Prod.mk.inj hr
    rw [step_rd hm (transactionRefusal_offset r), readOffset_offset]
  · rw [step_rd hm (transactionRefusal_reserved hoff), readOffset_reserved s hoff]

/-- The spec's clearing of sticky bits. -/
theorem extractLsb'_sticky (w : Word) : w.extractLsb' 8 5 = BitVec.ofNat 5 (w.toNat / 2 ^ 8) := by
  apply BitVec.eq_of_toNat_eq
  simp [Nat.shiftRight_eq_div_pow]

theorem writeBufv_buf (s : State) (w : Word) :
    (s.writeBufv w).buf = #v[{ s.buf[0] with v := w.getLsbD 0 }, { s.buf[1] with v := w.getLsbD 1 },
      { s.buf[2] with v := w.getLsbD 2 }, { s.buf[3] with v := w.getLsbD 3 }] := by
  ext1 i hi
  interval_cases i <;> simp [State.writeBufv]

/-- The registers of the window but `CMD`, in the order of the spec's table of writes. -/
def settableRegs : List WindowReg :=
  ([.id, .status, .data, .ctrLo, .ctrHi, .auxLo, .auxHi, .cnt, .offa, .offb, .bufv] : List WindowReg) ++
    (List.finRange 4).map WindowReg.bufBase ++ (List.finRange 4).map WindowReg.bufLen ++ (List.finRange 16).map WindowReg.win

/-- The spec's table of writes is what the model writes to each register, at its offset. -/
theorem windowEffects_eq (s : State) (w : Word) :
    windowEffects s w = settableRegs.map fun r => (r.offset, writeReg s w r) := by
  simp only [windowEffects, ← pair64_hi32, ← pair64_lo32, ← extractLsb'_sticky, ← writeBufv_buf]
  rfl

theorem ne_cmd_of_mem_settableRegs {r : WindowReg} (h : r ∈ settableRegs) : r ≠ .cmd := by
  rintro rfl
  exact absurd h (by decide)

/-- Settles O56: a listed offset is that of a register other than `CMD`, and a reserved one is none's. -/
theorem windowWritesStoreRegisters : Obligations.WindowWritesStoreRegisters := by
  rintro s u off w (hu | ⟨hoff, rfl⟩) hm
  · rw [windowEffects_eq, List.mem_map] at hu
    obtain ⟨r, hmem, hr⟩ := hu
    obtain ⟨rfl, rfl⟩ := Prod.mk.inj hr
    have hne : r.offset ≠ 4 := fun h => ne_cmd_of_mem_settableRegs hmem (offset_injective (r := .cmd) h)
    rw [step_wr hm (transactionRefusal_offset r) hne, writeOffset_offset]
  · have hne : off ≠ 4 := by
      obtain ⟨-, h⟩ := hoff
      omega
    rw [step_wr hm (transactionRefusal_reserved hoff) hne, writeOffset_reserved u w hoff]

/-! ## Writes to `CMD` and the two records -/

/-- Settles O6: the write is not refused, so that its command runs and `pc` moves on. -/
theorem stepRunsDecodedCommand : Obligations.StepRunsDecodedCommand := by
  intro s w i hm hd
  obtain ⟨t, ht⟩ := exec_next i s
  obtain ⟨-, hpc⟩ := exec_keeps_program_pc ht
  have hrun : runMove (.wr .word 4 w) s = .next t := by
    rw [runMove_wr_cmd (transactionRefusal_offset .cmd), runCommand, hd]
    exact ht
  exact ⟨t, ht, by rw [step_of_nextMove hm, hrun, advance, hpc]⟩

/-- Settles O15: `VEQ` alone writes the flag, with the value of `equalsResult`, and no other command depends on it. -/
theorem eqFlagWrittenOnlyByVeq : Obligations.EqFlagWrittenOnlyByVeq := by
  refine ⟨rfl, fun s => ?_, fun i s q hi => exec_writeEq hi s q, fun w s t => runCommand_keeps_eq, fun ka kb s t h herr => ?_,
    fun s t m hm hreset hcmd => step_keeps_of_no_command State.eq hm hreset hcmd (fun _ => rfl) (fun _ => rfl)
      (fun v r => writeReg_eq s v r) (fun _ _ => rfl)⟩
  · obtain ⟨-, heq, -⟩ := statusFieldsRead s
    exact heq
  · rw [exec_success h herr]
    exact equalsResult_eq_true_iff ..

theorem blockWord_of_lt (w : Block) {idx : BitVec 8} (h : idx.toNat < 16) : blockWord w idx = w[idx.toNat] := by
  simp [blockWord, h]

theorem chainWord_of_lt (v : Chain) {idx : BitVec 8} (h : idx.toNat < 8) : chainWord v idx = v[idx.toNat] := by
  simp [chainWord, h]

/-- Settles O16: the two word reads alone write `DATA`, with the word at the index. -/
theorem dataWrittenOnlyByWordReads : Obligations.DataWrittenOnlyByWordReads := by
  refine ⟨rfl, fun w s t => runCommand_keeps_data, fun bs idx s t hidx h herr => ?_, fun idx s t hidx h herr => ?_,
    fun s hm => ?_, fun s t m hm hreset hcmd => step_keeps_of_no_command State.data hm hreset hcmd (fun _ => rfl)
      (fun _ => rfl) (fun v r => writeReg_data s v r) (fun _ _ => rfl)⟩
  · rw [exec_success h herr]
    exact blockWord_of_lt _ hidx
  · rw [exec_success h herr]
    exact chainWord_of_lt _ hidx
  · rw [step_rd hm (transactionRefusal_offset .data)]
    rfl

end Sys2Proof.Machine
end

section
/-! Reset: the values of R36, and that nothing behind a valid bit can be read. -/

namespace Sys2Proof.Machine

open Sys2Proof.Claims

theorem raise_eq_failed (e : CmdError) (s : State) : s.raise e = failed e s := by
  cases e <;> rfl

theorem statusWord_reset : State.reset.statusWord = 0#32 := by
  decide

/-- With every valid bit clear, a command that reads a BlockState register or `H` fails its first check. -/
theorem exec_of_cleared {s : State} (hb : ∀ r : BsReg, s.bv[r] = false) (hh : s.hv = false) {i : Instr} (hi : readsValid i) :
    exec i s = .next (failed .argumentNull s) := by
  rw [← raise_eq_failed]
  apply exec_of_fail
  cases i with
  | bsrdw bs idx => rw [commandChecks, bsrdwChecks, hb]; rfl
  | bsstb bs k => rw [commandChecks, bsstbChecks, hb]; rfl
  | chacha bd bs ndr ff => rw [commandChecks, chachaChecks, hb]; rfl
  | hrdw idx => rw [commandChecks, hrdwChecks, hh]; rfl
  | b2scomp bm nr => rw [commandChecks, b2scompChecks, hh]; rfl
  | _ => exact hi.elim

/-- Settles O49: the reset move's state and `State.reset` are both a reset of some state, which holds zeros and clear valid
bits. -/
theorem resetLeavesSpecValues : Obligations.ResetLeavesSpecValues := by
  intro s hm
  refine ⟨{ s.resetRegisters with pc := s.pc + 1 }, by rw [step_of_nextMove hm]; rfl, rfl, fun u hu => ?_⟩
  obtain ⟨s', n, rfl⟩ : ∃ (s' : State) (n : Nat), u = { s'.resetRegisters with pc := n } := by
    obtain rfl | rfl := List.mem_pair.1 hu
    · exact ⟨s, _, rfl⟩
    · exact ⟨State.reset, 0, rfl⟩
  have hb (r : BsReg) : State.reset.bv[r] = false := Vector.getElem_replicate r.isLt
  have hwin (i : Fin 16) : State.reset.win[i] = 0#32 := Vector.getElem_replicate i.isLt
  have hbuf (k : BufReg) : State.reset.buf[k] = Descriptor.zero := Vector.getElem_replicate k.isLt
  refine ⟨hb, rfl, hwin, rfl, rfl, rfl, rfl, rfl, fun k => ?_, rfl, rfl, rfl, rfl, statusWord_reset, rfl,
    fun _ => exec_of_cleared (s := { s'.resetRegisters with pc := n }) hb rfl⟩
  simp [hbuf, Descriptor.zero]

end Sys2Proof.Machine
end

section
/-! `MEM`: the canonical form as a function from addresses to bytes, reads and writes of byte lists, and the bytes a command
stores to (R60, R61, R62, R69). -/

namespace Sys2Proof.Machine

open Sys2Proof.Claims

/-! ## The canonical form -/

theorem Memory.wfFrom_cons_iff {lo k : Nat} {v : Byte} {rest : Memory} :
    Memory.wfFrom lo ((k, v) :: rest) = true ↔
      lo ≤ k ∧ k < Config.memSize ∧ v ≠ Config.unlistedByte ∧ rest.wfFrom (k + 1) = true := by
  simp [Memory.wfFrom, and_assoc]

@[simp] theorem Memory.readByte_cons_self (k : Nat) (v : Byte) (rest : Memory) : Memory.readByte ((k, v) :: rest) k = v := by
  simp [Memory.readByte]

theorem Memory.readByte_cons_of_lt {k x : Nat} (h : k < x) (v : Byte) (rest : Memory) :
    Memory.readByte ((k, v) :: rest) x = rest.readByte x := by
  simp [Memory.readByte, h.ne', h.le]

/-- An address that reads as no unlisted byte is not below the least one. -/
theorem Memory.le_of_readByte_ne {lo x : Nat} {m : Memory} (hm : m.wfFrom lo = true) (hx : m.readByte x ≠ Config.unlistedByte) :
    lo ≤ x :=
  Nat.le_of_not_lt fun hlt => hx (Memory.readByte_below hlt m hm)

/-- The least listed address is at or below each address that reads as no unlisted byte. -/
theorem Memory.head_le_of_readByte_ne {lo k x : Nat} {v : Byte} {rest : Memory} (hm : Memory.wfFrom lo ((k, v) :: rest) = true)
    (hx : Memory.readByte ((k, v) :: rest) x ≠ Config.unlistedByte) : k ≤ x := by
  obtain ⟨-, hk, hv, hrest⟩ := Memory.wfFrom_cons_iff.1 hm
  exact Memory.le_of_readByte_ne (Memory.wfFrom_cons_iff.2 ⟨le_rfl, hk, hv, hrest⟩) hx

/-- A canonical memory that lists an address reads there as no unlisted byte. -/
theorem Memory.readByte_head_ne {lo k : Nat} {v : Byte} {rest : Memory} (hm : Memory.wfFrom lo ((k, v) :: rest) = true) :
    Memory.readByte ((k, v) :: rest) k ≠ Config.unlistedByte := by
  obtain ⟨-, -, hv, -⟩ := Memory.wfFrom_cons_iff.1 hm
  rwa [Memory.readByte_cons_self]

/-- The entries after the first read the same if the whole memories do: at or below the first address both are unlisted. -/
theorem Memory.readByte_tail_eq {k : Nat} {v v' : Byte} {rest rest' : Memory} (hr : rest.wfFrom (k + 1) = true)
    (hr' : rest'.wfFrom (k + 1) = true)
    (h : ∀ x, Memory.readByte ((k, v) :: rest) x = Memory.readByte ((k, v') :: rest') x) (x : Nat) :
    rest.readByte x = rest'.readByte x := by
  obtain hx | hx := Nat.lt_or_ge k x
  · rw [← Memory.readByte_cons_of_lt hx v, h, Memory.readByte_cons_of_lt hx]
  · have hx' : x < k + 1 := Nat.lt_succ_of_le hx
    rw [Memory.readByte_below hx' rest hr, Memory.readByte_below hx' rest' hr']

theorem Memory.eq_of_readByte_eq {m m' : Memory} {lo : Nat} (hm : m.wfFrom lo = true) (hm' : m'.wfFrom lo = true)
    (h : ∀ x, m.readByte x = m'.readByte x) : m = m' := by
  induction m generalizing m' lo with
  | nil =>
    cases m' with
    | nil => rfl
    | cons c' rest' => exact absurd (h c'.1).symm (Memory.readByte_head_ne hm')
  | cons c rest ih =>
    obtain ⟨k, v⟩ := c
    cases m' with
    | nil => exact absurd (h k) (Memory.readByte_head_ne hm)
    | cons c' rest' =>
      obtain ⟨k', v'⟩ := c'
      have hle : k ≤ k' := Memory.head_le_of_readByte_ne hm (h k' ▸ Memory.readByte_head_ne hm')
      have hge : k' ≤ k := Memory.head_le_of_readByte_ne hm' (h k ▸ Memory.readByte_head_ne hm)
      obtain rfl : k = k' := Nat.le_antisymm hle hge
      obtain rfl : v = v' := by simpa using h k
      obtain ⟨-, -, -, hr⟩ := Memory.wfFrom_cons_iff.1 hm
      obtain ⟨-, -, -, hr'⟩ := Memory.wfFrom_cons_iff.1 hm'
      rw [ih hr hr' (Memory.readByte_tail_eq hr hr' h)]

/-- Settles O21, by induction on both lists: the least address that reads as no unlisted byte is the first entry's of each. -/
theorem canonicalMemoriesWithEqualBytesAreEqual : Obligations.CanonicalMemoriesWithEqualBytesAreEqual :=
  fun _ _ hm hm' h => Memory.eq_of_readByte_eq hm hm' h

/-! ## Lists of bytes (R61, R62) -/

theorem Memory.readBytes_getElem? (m : Memory) {n i : Nat} (a : Nat) (hi : i < n) :
    (m.readBytes a n)[i]? = some (m.readByte (a + i)) := by
  induction n generalizing a i with
  | zero => exact absurd hi (Nat.not_lt_zero i)
  | succ n ih =>
    cases i with
    | zero => rfl
    | succ i =>
      rw [Memory.readBytes, List.getElem?_cons_succ, ih (a + 1) (Nat.lt_of_succ_lt_succ hi), Nat.add_right_comm, Nat.add_assoc]

/-- Settles O20. -/
theorem memReadListsBytesInOrder : Obligations.MemReadListsBytesInOrder := fun m a n =>
  ⟨m.readBytes_length n a, fun _ => m.readBytes_getElem? a⟩

/-- Settles O19, by induction on the bytes: the first one is at `a`, which the write of the others from `a + 1` leaves. -/
theorem memWriteSetsItsBytesOnly : Obligations.MemWriteSetsItsBytesOnly := by
  intro m a vs x hm hend
  induction vs generalizing m a with
  | nil => simp [Memory.writeBytes]
  | cons v vs ih =>
    rw [List.length_cons] at hend
    have ha : a < Config.memSize := lt_of_lt_of_le (Nat.lt_add_of_pos_right vs.length.succ_pos) hend
    rw [Memory.writeBytes, ih _ _ (Memory.writeByte_wf v hm ha) (by omega), Memory.readByte_writeByte a v x hm]
    obtain hx | rfl | hx := Nat.lt_trichotomy x a
    · simp [hx.not_ge, hx.ne, (Nat.lt_succ_of_lt hx).not_ge]
    · simp
    · obtain ⟨j, rfl⟩ := Nat.exists_eq_add_of_lt hx
      have hj : a + j + 1 - (a + 1) = j := by omega
      have hj' : a + j + 1 - a = j + 1 := by omega
      simp only [hj, hj']
      simp [Nat.add_assoc]

/-- A write of bytes leaves every byte outside its range (R62). -/
theorem Memory.readByte_writeBytes_of_outside {m : Memory} {a x : Nat} {vs : List Byte} (hm : m.wf = true)
    (hend : a + vs.length ≤ Config.memSize) (hx : x < a ∨ a + vs.length ≤ x) : (m.writeBytes a vs).readByte x = m.readByte x := by
  rw [memWriteSetsItsBytesOnly m a vs x hm hend, dif_neg]
  omega

/-! ## What a command stores (R37, R123, R144, R148) -/

theorem Descriptor.admits_iff {d : Descriptor} {off n : Nat} :
    d.admits off n = true ↔ d.v = true ∧ d.base.toNat + d.len.toNat ≤ Config.memSize ∧ off + n ≤ d.len.toNat := by
  simp [Descriptor.admits, and_assoc]

/-- A range in bounds ends inside its buffer (R69). -/
theorem Descriptor.start_add_le {d : Descriptor} {off : Word} {n : Nat} (h : off.toNat + n ≤ d.len.toNat) :
    d.start off + n ≤ d.base.toNat + d.len.toNat := by
  rw [Descriptor.start]
  omega

/-- Settles O22: the range ends inside its buffer, and the buffer inside `MEM`. -/
theorem admittedRangeInsideMemory : Obligations.AdmittedRangeInsideMemory := by
  intro d off n h
  obtain ⟨-, hform, hrange⟩ := Descriptor.admits_iff.1 h
  have hend := Descriptor.start_add_le hrange
  exact ⟨hend.trans hform, hend⟩

/-- The range a vector command writes, inside `MEM` once its checks have passed. -/
theorem State.startA_add_count_le {ka kb : BufReg} {s : State} (hc : firstFailure (vectorChecks ka kb s) = none) :
    s.startA ka + s.count ≤ Config.memSize := by
  obtain ⟨-, ⟨hform, -⟩, hrange, -⟩ := vectorChecks_pass.1 hc
  exact (Descriptor.start_add_le hrange).trans hform

/-- The destination of a command that passed its checks lies inside `MEM`. -/
theorem destinationRange_end_le {i : Instr} {s : State} {a n : Nat} (hc : firstFailure (commandChecks i s) = none)
    (hd : destinationRange i s = some (a, n)) : a + n ≤ Config.memSize := by
  cases i with
  | bsstb bs k =>
    obtain ⟨rfl, rfl⟩ := Prod.mk.inj (Option.some.inj hd)
    obtain ⟨-, hform, hrange⟩ := bsstbChecks_pass.1 hc
    exact (Descriptor.start_add_le hrange).trans hform
  | vcopy ka kb =>
    obtain ⟨rfl, rfl⟩ := Prod.mk.inj (Option.some.inj hd)
    exact State.startA_add_count_le hc
  | vxor ka kb =>
    obtain ⟨rfl, rfl⟩ := Prod.mk.inj (Option.some.inj hd)
    exact State.startA_add_count_le hc
  | _ => cases hd

/-- An effect on `MEM` is one write, of as many bytes as the command's destination has. -/
theorem commandEffect_mem_cases (i : Instr) (s : State) :
    (commandEffect i s).mem = s.mem ∨
    ∃ a vs, destinationRange i s = some (a, vs.length) ∧ (commandEffect i s).mem = s.mem.writeBytes a vs := by
  cases i with
  | bsstb bs k => exact .inr ⟨_, blockImage s.b[bs], by rw [blockImage_length]; rfl, rfl⟩
  | vcopy ka kb => exact .inr ⟨_, s.mem.readBytes (s.startB kb) s.count, by rw [Memory.readBytes_length]; rfl, rfl⟩
  | vxor ka kb =>
    by_cases hco : coincide (s.startA ka) (s.startB kb) = true
    · exact .inl (by rw [commandEffect, if_pos hco])
    · refine .inr ⟨s.startA ka, _, ?_, (congrArg State.mem (if_neg hco)).trans rfl⟩
      simp [destinationRange]
  | _ => exact .inl rfl

/-- Everything a command can do to `MEM`: nothing, or one write to its destination, which lies inside `MEM`. -/
theorem exec_mem_cases {i : Instr} {s t : State} (h : exec i s = .next t) :
    t.mem = s.mem ∨
    ∃ a vs, destinationRange i s = some (a, vs.length) ∧ a + vs.length ≤ Config.memSize ∧ t.mem = s.mem.writeBytes a vs := by
  obtain ⟨e, -, rfl⟩ | ⟨hc, rfl⟩ := exec_next_cases h
  · exact .inl rfl
  · obtain hmem | ⟨a, vs, hd, hmem⟩ := commandEffect_mem_cases i s
    · exact .inl hmem
    · exact .inr ⟨a, vs, hd, destinationRange_end_le hc hd, hmem⟩

/-- The model's destination is the spec's. -/
theorem stored_of_destinationRange {i : Instr} {s : State} {a n : Nat} (hd : destinationRange i s = some (a, n)) :
    stored i s a n := by
  cases i with
  | bsstb bs k =>
    obtain ⟨rfl, rfl⟩ := Prod.mk.inj (Option.some.inj hd)
    exact .inl ⟨bs, k, rfl, rfl, rfl⟩
  | vcopy ka kb =>
    obtain ⟨rfl, rfl⟩ := Prod.mk.inj (Option.some.inj hd)
    exact .inr ⟨ka, kb, .inl rfl, rfl, rfl⟩
  | vxor ka kb =>
    obtain ⟨rfl, rfl⟩ := Prod.mk.inj (Option.some.inj hd)
    exact .inr ⟨ka, kb, .inr rfl, rfl, rfl⟩
  | _ => cases hd

/-- Settles O14: the one write a command may make to `MEM` has the destination as its range. -/
theorem storesStayInDestination : Obligations.StoresStayInDestination := by
  intro i s t x hs h hx
  obtain hmem | ⟨a, vs, hd, hend, hmem⟩ := exec_mem_cases h
  · rw [hmem]
  · rw [hmem, Memory.readByte_writeBytes_of_outside hs hend (hx _ _ (stored_of_destinationRange hd))]

/-! ## The invariant -/

theorem State.Inv.of_mem_eq {s t : State} (hs : s.Inv) (h : t.mem = s.mem) : t.Inv := by
  rwa [State.Inv, h]

@[simp] theorem writeReg_mem (s : State) (w : Word) (r : WindowReg) : (writeReg s w r).mem = s.mem := by cases r <;> rfl

theorem exec_keeps_inv {i : Instr} {s t : State} (hs : s.Inv) (h : exec i s = .next t) : t.Inv := by
  obtain hmem | ⟨a, vs, -, hend, hmem⟩ := exec_mem_cases h
  · exact hs.of_mem_eq hmem
  · rw [State.Inv, hmem]
    exact Memory.writeBytes_wf vs hs hend

theorem runCommand_keeps_inv {w : Word} {s t : State} (hs : s.Inv) (h : runCommand w s = .next t) : t.Inv := by
  obtain ⟨i, -, hi⟩ | rfl := runCommand_next_cases h
  · exact exec_keeps_inv hs hi
  · exact hs

/-- Reset during a command leaves free bytes in its destination alone, which lies inside `MEM` (R261). -/
theorem abandonStores_keeps_inv {s : State} (w : Word) (hs : s.Inv) : (s.abandonStores w).Inv := by
  obtain h | ⟨i, a, n, -, hc, hd, h⟩ := abandonStores_cases s w <;> rw [h]
  · exact hs
  · have hend : a + (freeBytes s.freeCount n).length ≤ Config.memSize := by
      rw [freeBytes_length]
      exact destinationRange_end_le hc hd
    exact Memory.writeBytes_wf _ hs hend

theorem runMove_keeps_inv {m : HostMove} {s t : State} (hs : s.Inv) (h : runMove m s = .next t) : t.Inv := by
  obtain ⟨off, -, -, -, rfl⟩ | ⟨off, v, -, -, -, -, rfl⟩ | ⟨w, -, hw⟩ | ⟨a, -, rfl⟩ | ⟨a, v, -, rfl⟩ | ⟨-, rfl⟩ |
    ⟨w, -, rfl⟩ := runMove_next_cases h
  · exact hs
  · exact hs.of_mem_eq (writeOffset_keeps State.mem fun r _ => writeReg_mem s v r)
  · exact runCommand_keeps_inv hs hw
  · exact hs
  · exact Memory.writeByte_wf v hs a.isLt
  · exact hs
  · exact abandonStores_keeps_inv w hs

/-- Settles O17: every write a move makes lies inside `MEM`, and such a write keeps the canonical form. -/
theorem stepKeepsMemoryCanonical : Obligations.StepKeepsMemoryCanonical := by
  intro s t hs h
  obtain ⟨m, u, -, hu, rfl⟩ := step_next_cases h
  exact (runMove_keeps_inv hs hu).of_mem_eq rfl

/-! ## The host's own accesses (R74) -/

theorem step_store {s : State} {a : Address} {v : Byte} (hm : nextMove s (.store a v)) :
    step s = .next { s with mem := s.mem.writeByte a.toNat v, pc := s.pc + 1 } :=
  step_of_nextMove hm

theorem step_load {s : State} {x : Address} (hm : nextMove s (.load x)) :
    step s = .next
      { s with results := s.results ++ [BitVec.ofNat 32 (s.mem.readByte x.toNat).toNat], pc := s.pc + 1 } := by
  rw [step_of_nextMove hm, BitVec.ofNat_toNat]
  rfl

/-- What an address reads as after a byte store to a canonical memory. -/
theorem Memory.readByte_writeByte_address {m : Memory} (hm : m.wf = true) (a x : Address) (v : Byte) :
    (m.writeByte a.toNat v).readByte x.toNat = if x = a then v else m.readByte x.toNat := by
  simp only [Memory.readByte_writeByte _ v _ hm, BitVec.toNat_inj]

/-- Settles O59. -/
theorem hostLoadsSeeHostStores : Obligations.HostLoadsSeeHostStores := by
  intro s a x v hs hstore hload
  refine ⟨s.mem.writeByte a.toNat v, step_store hstore, ?_⟩
  have hnext : nextMove { s with mem := s.mem.writeByte a.toNat v, pc := s.pc + 1 } (.load x) := hload
  rw [step_load hnext, Memory.readByte_writeByte_address hs]

end Sys2Proof.Machine
end

section
/-! The command word: its fields as numbers, which rows test which fields, and what decode makes of a word (R93 to R97, R104). -/

namespace Sys2Proof

open Sys2Proof.Claims

/-! ## A word and its fields (R93) -/

theorem fieldR1_eq (w : Word) : fieldR1 w = r1 w := by
  ext
  simp [fieldR1, r1, bits, Nat.shiftRight_eq_div_pow]

theorem fieldR2_eq (w : Word) : fieldR2 w = r2 w := by
  ext
  simp [fieldR2, r2, bits, Nat.shiftRight_eq_div_pow]

theorem fieldImm8_eq (w : Word) : fieldImm8 w = imm8 w := by
  apply BitVec.eq_of_toNat_eq
  simp [fieldImm8, imm8, bits, Nat.shiftRight_eq_div_pow]

theorem fieldFf_eq (w : Word) : fieldFf w = ff w := by
  simp [fieldFf, ff, bits, BitVec.getLsbD, Nat.testBit_eq_decide_div_mod_eq, Bool.beq_eq_decide_eq]

/-- The fields of a command word, as lowest bit and width. -/
def wordFields : List (Nat × Nat) := [(24, 8), (22, 2), (20, 2), (12, 8), (11, 1), (0, 11)]

/-- The fields cover the word: two words with the same fields are the same. -/
theorem word_eq_iff {v w : Word} : v = w ↔ ∀ f ∈ wordFields, bits v f.1 f.2 = bits w f.1 f.2 := by
  constructor
  · rintro rfl _ _
    rfl
  · intro h
    simp only [wordFields, List.forall_mem_cons, bits] at h
    have hv := v.isLt
    have hw := w.isLt
    apply BitVec.eq_of_toNat_eq
    omega

theorem bits_and (v w : Word) (lo n : Nat) : bits (v &&& w) lo n = bits v lo n &&& bits w lo n := by
  simp [bits, Nat.and_div_two_pow, Nat.and_mod_two_pow]

section
variable (op : Nat) (a b : Fin 4) (imm : BitVec 8) (f : Bool)

@[simp] theorem bits_assembleWord :
    bits (assembleWord op a b imm f) 24 8 = op % 256 ∧ bits (assembleWord op a b imm f) 22 2 = a.val ∧
    bits (assembleWord op a b imm f) 20 2 = b.val ∧ bits (assembleWord op a b imm f) 12 8 = imm.toNat ∧
    bits (assembleWord op a b imm f) 11 1 = f.toNat ∧ bits (assembleWord op a b imm f) 0 11 = 0 := by
  have himm := imm.isLt
  have hf := f.toNat_lt
  simp only [bits, assembleWord, BitVec.toNat_ofNat]
  omega

end

@[simp] theorem r1_val (w : Word) : (r1 w).val = bits w 22 2 := Nat.mod_mod ..

@[simp] theorem r2_val (w : Word) : (r2 w).val = bits w 20 2 := Nat.mod_mod ..

@[simp] theorem imm8_toNat (w : Word) : (imm8 w).toNat = bits w 12 8 := (BitVec.toNat_ofNat ..).trans (Nat.mod_mod ..)

@[simp] theorem ff_toNat (w : Word) : (ff w).toNat = bits w 11 1 := by
  obtain h | h : bits w 11 1 = 0 ∨ bits w 11 1 = 1 := by
    simp only [bits]
    omega
  all_goals simp [ff, h]

/-! ## Rows and their fields (R95) -/

/-- The row leaves the field to the operands. -/
def OpRow.leaves (r : OpRow) (f : Nat × Nat) : Prop := bits r.mask f.1 f.2 = 0 ∧ bits r.pattern f.1 f.2 = 0

/-- The row tests every bit of the field. -/
def OpRow.tests (r : OpRow) (f : Nat × Nat) : Prop := bits r.mask f.1 f.2 = 2 ^ f.2 - 1

theorem accepts_iff {r : OpRow} {w : Word} :
    r.accepts w = true ↔ ∀ f ∈ wordFields, bits w f.1 f.2 &&& bits r.mask f.1 f.2 = bits r.pattern f.1 f.2 := by
  rw [OpRow.accepts, beq_iff_eq, word_eq_iff]
  simp only [bits_and]

/-- A tested field of an accepted word is the pattern's. -/
theorem bits_of_accepts {r : OpRow} {w : Word} {f : Nat × Nat} (ht : r.tests f) (h : r.accepts w = true) :
    bits w f.1 f.2 = bits r.pattern f.1 f.2 := by
  rw [OpRow.accepts, beq_iff_eq] at h
  rw [← h, bits_and, ht, Nat.and_two_pow_sub_one_eq_mod, bits, Nat.mod_mod]

/-- Each field of the encoding of the command a row builds is an operand's, taken from the word, or the pattern's: read off the
twelve rows, field by field. Both directions between words and commands follow from it. -/
theorem bits_encode_build {r : OpRow} (hr : r ∈ opcodeMap) (w : Word) : ∀ f ∈ wordFields,
    r.leaves f ∧ bits (encode (r.build w)) f.1 f.2 = bits w f.1 f.2 ∨
    r.tests f ∧ bits (encode (r.build w)) f.1 f.2 = bits r.pattern f.1 f.2 := by
  revert r
  simp only [opcodeMap, wordFields, List.forall_mem_cons, OpRow.leaves, OpRow.tests, encode, fieldR1_eq, fieldR2_eq, fieldImm8_eq,
    fieldFf_eq, bits_assembleWord, r1_val, r2_val, imm8_toNat, ff_toNat]
  simp [bits]

theorem accepts_encode_build {r : OpRow} (hr : r ∈ opcodeMap) (w : Word) : r.accepts (encode (r.build w)) = true := by
  refine accepts_iff.2 fun f hf => ?_
  obtain ⟨⟨hmask, hpattern⟩, -⟩ | ⟨hmask, hbits⟩ := bits_encode_build hr w f hf
  · rw [hmask, hpattern, Nat.and_zero]
  · rw [hmask, hbits, Nat.and_two_pow_sub_one_eq_mod, bits, Nat.mod_mod]

theorem encode_build {r : OpRow} {w : Word} (hr : r ∈ opcodeMap) (h : r.accepts w = true) : encode (r.build w) = w := by
  refine word_eq_iff.2 fun f hf => ?_
  obtain ⟨-, hbits⟩ | ⟨htests, hbits⟩ := bits_encode_build hr w f hf
  · exact hbits
  · exact hbits.trans (bits_of_accepts htests h).symm

/-! ## Decode and encode (R104) -/

/-- The opcode of a row's command. -/
def OpRow.opcode (r : OpRow) : Nat := bits r.pattern 24 8

theorem opcode_nodup : (opcodeMap.map OpRow.opcode).Nodup := by decide

theorem opcode_tested : ∀ r ∈ opcodeMap, r.tests (24, 8) := by
  unfold OpRow.tests
  decide

theorem opcode_of_accepts {r : OpRow} {w : Word} (hr : r ∈ opcodeMap) (h : r.accepts w = true) : r.opcode = bits w 24 8 :=
  (bits_of_accepts (opcode_tested r hr) h).symm

theorem accepting_row_unique {r q : OpRow} {w : Word} (hr : r ∈ opcodeMap) (hq : q ∈ opcodeMap) (hrw : r.accepts w = true)
    (hqw : q.accepts w = true) : r = q :=
  List.inj_on_of_nodup_map opcode_nodup hr hq ((opcode_of_accepts hr hrw).trans (opcode_of_accepts hq hqw).symm)

/-- The accepting rows have distinct opcodes, all of them the word's. -/
theorem accepting_rows_length_le_one (w : Word) : (opcodeMap.filter (·.accepts w)).length ≤ 1 := by
  have hopcodes : (opcodeMap.filter (·.accepts w)).map OpRow.opcode =
      List.replicate (opcodeMap.filter (·.accepts w)).length (bits w 24 8) := by
    refine List.map_eq_replicate_iff.2 fun r hr => ?_
    obtain ⟨hmem, hw⟩ := List.mem_filter.1 hr
    exact opcode_of_accepts hmem hw
  rw [← List.nodup_replicate (a := bits w 24 8), ← hopcodes]
  exact opcode_nodup.sublist (List.filter_sublist.map OpRow.opcode)

/-- Decode finds the row that accepts the word. -/
theorem decode_of_accepts {r : OpRow} {w : Word} (hr : r ∈ opcodeMap) (h : r.accepts w = true) : decode w = .ok (r.build w) := by
  cases hd : decode w with
  | error e =>
    have hnone := decode_error_iff.1 ⟨e, hd⟩ r hr
    exact absurd (hnone.symm.trans h) Bool.false_ne_true
  | ok i =>
    obtain ⟨q, hq, hqw, rfl⟩ := decode_ok_row hd
    rw [accepting_row_unique hq hr hqw h]

/-- A command is built again from its word by a row of the map, its own. -/
theorem exists_row_build_encode (i : Instr) : ∃ r ∈ opcodeMap, r.build (encode i) = i := by
  have h : i ∈ opcodeMap.map (·.build (encode i)) := by
    cases i <;> simp [opcodeMap, encode, fieldR1_eq, fieldR2_eq, fieldImm8_eq, fieldFf_eq, r1, r2, imm8, ff]
  exact List.mem_map.1 h

/-- Settles O2: the command's row accepts its word and builds the command again. -/
theorem decodeEncodeRoundTrip : Obligations.DecodeEncodeRoundTrip := by
  intro i
  obtain ⟨r, hr, hbuild⟩ := exists_row_build_encode i
  have haccepts := accepts_encode_build hr (encode i)
  rw [hbuild] at haccepts
  rw [decode_of_accepts hr haccepts, hbuild]

/-- Settles O3. -/
theorem decodedWordIsItsEncoding : Obligations.DecodedWordIsItsEncoding := by
  intro w i h
  obtain ⟨r, hr, hw, rfl⟩ := decode_ok_row h
  exact encode_build hr hw

/-- Settles O1: each word is the encoding of its command. -/
theorem workedEncodingsDecode : Obligations.WorkedEncodingsDecode :=
  ⟨decodeEncodeRoundTrip (.bsldw 0), decodeEncodeRoundTrip (.bsldb 2 3), decodeEncodeRoundTrip (.bsrdw 1 15),
    decodeEncodeRoundTrip (.bsstb 1 1), decodeEncodeRoundTrip (.vcopy 0 1), decodeEncodeRoundTrip (.veq 2 3),
    decodeEncodeRoundTrip (.vxor 0 1), decodeEncodeRoundTrip (.chacha 1 0 10 true),
    decodeEncodeRoundTrip (.chacha 1 0 10 false), decodeEncodeRoundTrip .ctrinc, decodeEncodeRoundTrip .hldw,
    decodeEncodeRoundTrip (.hrdw 7), decodeEncodeRoundTrip (.b2scomp 3 10), decode_error_iff.2 (by decide)⟩

/-! ## The spec's own table (R95, R97) -/

/-- A row as the spec's table gives it, in numbers. -/
def OpRow.toSpec (r : OpRow) : SpecRow := ⟨r.pattern.toNat, r.mask.toNat, r.build⟩

theorem specRows_eq : specRows = opcodeMap.map OpRow.toSpec := by
  simp only [specRows, ← fieldR1_eq, ← fieldR2_eq, ← fieldImm8_eq, ← fieldFf_eq]
  rfl

theorem isMatch_toSpec (r : OpRow) (w : Word) : r.toSpec.isMatch w = r.accepts w := by
  simp only [SpecRow.isMatch, OpRow.accepts, OpRow.toSpec, Bool.beq_eq_decide_eq, ← BitVec.toNat_inj, BitVec.toNat_and]
  rfl

/-- No row of the spec's table matches exactly when no row of the map accepts. -/
theorem specRows_unmatched_iff {w : Word} :
    (∀ r ∈ specRows, r.isMatch w = false) ↔ ∀ r ∈ opcodeMap, r.accepts w = false := by
  simp only [specRows_eq, List.forall_mem_map, isMatch_toSpec]

/-- Settles O4: the spec's table is the model's opcode map, whose rows exclude each other. -/
theorem decodeFollowsOpcodeMap : Obligations.DecodeFollowsOpcodeMap := by
  refine fun w => ⟨?_, ?_, fun h => decode_error_iff.2 (specRows_unmatched_iff.1 h)⟩
  · rw [specRows_eq, List.filter_map, List.length_map]
    simpa only [Function.comp_def, isMatch_toSpec] using accepting_rows_length_le_one w
  · rw [specRows_eq, List.forall_mem_map]
    intro r hr h
    exact decode_of_accepts hr ((isMatch_toSpec r w).symm.trans h)

/-- The row fixes the field at 0. -/
def OpRow.wantsZero (r : OpRow) (f : Nat × Nat) : Prop := r.tests f ∧ bits r.pattern f.1 f.2 = 0

/-- R97: a word with a bit set in a field that every row of its opcode wants at 0 matches no row. -/
theorem unmatched_of_field {w : Word} {f : Nat × Nat} {ops : Nat → Prop}
    (hrows : ∀ r ∈ opcodeMap, ops r.opcode → r.wantsZero f) (hf : bits w f.1 f.2 ≠ 0) (hop : ops (bits w 24 8)) :
    ∀ r ∈ specRows, r.isMatch w = false := by
  refine specRows_unmatched_iff.2 fun r hr => Bool.eq_false_of_not_eq_true fun h => hf ?_
  obtain ⟨htests, hzero⟩ := hrows r hr (opcode_of_accepts hr h ▸ hop)
  exact (bits_of_accepts htests h).trans hzero

/-- R97: a word with an unlisted opcode matches no row. -/
theorem unmatched_of_opcode {w : Word} (hop : bits w 24 8 ∉ opcodeMap.map OpRow.opcode) :
    ∀ r ∈ specRows, r.isMatch w = false :=
  specRows_unmatched_iff.2 fun _ hr => Bool.eq_false_of_not_eq_true fun h =>
    hop (List.mem_map.2 ⟨_, hr, opcode_of_accepts hr h⟩)

end Sys2Proof

namespace Sys2Proof.Machine

open Sys2Proof.Claims

theorem runCommand_of_unmatched {w : Word} (h : ∀ r ∈ specRows, r.isMatch w = false) (s : State) :
    runCommand w s = .next (s.raise .illegalCommand) := by
  obtain ⟨e, he⟩ := decode_error_iff.2 (specRows_unmatched_iff.1 h)
  rw [runCommand, he]
  rfl

/-- Settles O5: a word no row matches is illegal, and the fields each row of the opcode map wants at 0 are read off the map. -/
theorem illegalWordRaisesIllegalCommand : Obligations.IllegalWordRaisesIllegalCommand := by
  refine fun w s => ⟨fun h => runCommand_of_unmatched h s, unmatched_of_opcode,
    fun hzero => unmatched_of_field (f := (0, 11)) (ops := fun _ => True) ?_ hzero trivial,
    unmatched_of_field (f := (11, 1)) (ops := (· ≠ 0x20)) ?_,
    unmatched_of_field (f := (12, 8)) (ops := (· ∉ [0x03, 0x20, 0x31, 0x32])) ?_,
    unmatched_of_field (f := (20, 2)) (ops := (· ∈ [0x01, 0x03, 0x21, 0x30, 0x31])) ?_,
    unmatched_of_field (f := (22, 2)) (ops := (· ∈ [0x21, 0x30, 0x31, 0x32])) ?_⟩
  all_goals
    unfold OpRow.wantsZero OpRow.tests
    decide

/-- Settles O8. -/
theorem commandsAlwaysAnswer : Obligations.CommandsAlwaysAnswer := runCommand_next

end Sys2Proof.Machine
end

section
/-! The window's transactions: which are refused, under which name, and what those that write no `CMD` leave (R90, R91). -/

namespace Sys2Proof.Machine

open Sys2Proof.Claims

/-! ## Refusals (R90) -/

theorem Width.isWord_eq_true_iff {width : Width} : width.isWord = true ↔ width = .word := by
  cases width <;> simp [Width.isWord]

theorem transactionRefusal_width {width : Width} (h : width ≠ .word) (off : Nat) :
    transactionRefusal width off = some .transactionWidth := by
  have hword : width.isWord = false := Bool.eq_false_of_not_eq_true fun hw => h (Width.isWord_eq_true_iff.1 hw)
  simp [transactionRefusal, hword]

theorem transactionRefusal_unaligned {off : Nat} (h : off % 4 ≠ 0) :
    transactionRefusal .word off = some .transactionUnaligned := by
  simp [transactionRefusal, Width.isWord, offsetAligned, h]

theorem transactionRefusal_outside {off : Nat} (h4 : off % 4 = 0) (h : 0xFC < off) :
    transactionRefusal .word off = some .transactionOutsideWindow := by
  have hend : ¬ off + 4 ≤ 256 := by omega
  simp [transactionRefusal, Width.isWord, offsetAligned, offsetInWindow, Config.windowSize, h4, hend]

section
variable {s : State} {width : Width} {off : Nat} {w : Word}
  (hm : nextMove s (.rd width off) ∨ nextMove s (.wr width off w))
include hm

theorem step_of_refusal {r : Refusal} (h : transactionRefusal width off = some r) : step s = .refused r := by
  obtain hm | hm := hm
  · rw [step_of_nextMove hm, runMove_rd_refused h, advance]
  · rw [step_of_nextMove hm, runMove_wr_refused h, advance]

theorem step_next_of_no_refusal (h : transactionRefusal width off = none) : ∃ t, step s = .next t := by
  obtain hm | hm := hm
  · exact ⟨_, by rw [step_of_nextMove hm, runMove_rd h, advance]⟩
  · by_cases hoff : off = 4
    · subst hoff
      obtain ⟨t, ht⟩ := runCommand_next w s
      exact ⟨_, by rw [step_of_nextMove hm, runMove_wr_cmd h, ht, advance]⟩
    · exact ⟨_, by rw [step_of_nextMove hm, runMove_wr h hoff, advance]⟩

end

/-- Settles O58: each clause is the refusal, or none, of that transaction. -/
theorem foreignTransactionsAreRefused : Obligations.ForeignTransactionsAreRefused := by
  intro s width off w hm
  refine ⟨fun hwidth => step_of_refusal hm (transactionRefusal_width hwidth off), ?_, ?_, ?_⟩
  · rintro rfl halign
    exact step_of_refusal hm (transactionRefusal_unaligned halign)
  · rintro rfl halign hend
    exact step_of_refusal hm (transactionRefusal_outside halign hend)
  · rintro rfl halign hend
    exact step_next_of_no_refusal hm (transactionRefusal_word halign (by omega))

/-! ## What a transaction leaves (R91) -/

/-- What commands alone write: `ERR`, `EQ`, `DATA`, the BlockState registers, `H`, their valid bits and `MEM`. -/
def State.commandResults (s : State) :
    Option CmdError × Bool × Word × Vector Block 4 × Vector Bool 4 × Chain × Bool × Memory :=
  (s.err, s.eq, s.data, s.b, s.bv, s.h, s.hv, s.mem)

theorem writeReg_commandResults (s : State) (w : Word) (r : WindowReg) :
    (writeReg s w r).commandResults = s.commandResults := by
  cases r <;> rfl

theorem runMove_rd_next {width : Width} {off : Nat} {s t : State} (h : runMove (.rd width off) s = .next t) :
    t = s.reply (readOffset s off) := by
  cases hr : transactionRefusal width off with
  | some r => simp [runMove_rd_refused hr] at h
  | none => simpa [runMove_rd hr] using h.symm

theorem runMove_wr_next {width : Width} {off : Nat} {w : Word} {s t : State} (hoff : off ≠ 4)
    (h : runMove (.wr width off w) s = .next t) : t = writeOffset s off w := by
  cases hr : transactionRefusal width off with
  | some r => simp [runMove_wr_refused hr] at h
  | none => simpa [runMove_wr hr hoff] using h.symm

/-- Settles O57: a read replies to the host, and a write to any offset but `CMD` is a register write. -/
theorem onlyCommandsChangeResults : Obligations.OnlyCommandsChangeResults := by
  intro s t width off w hm h
  have hresults : t.commandResults = s.commandResults := by
    obtain hrd | ⟨hoff, hwr⟩ := hm
    · obtain ⟨u, hu, rfl⟩ := step_next_of_nextMove hrd h
      rw [runMove_rd_next hu]
      rfl
    · obtain ⟨u, hu, rfl⟩ := step_next_of_nextMove hwr h
      rw [runMove_wr_next hoff hu]
      exact writeOffset_keeps State.commandResults fun r _ => writeReg_commandResults s w r
  simpa [State.commandResults] using hresults

end Sys2Proof.Machine
end

section
/-! A command's ending from the table of R232: the first failing check is the spec's cause, which alone decides between the error
and the effect. -/

namespace Sys2Proof.Machine

open Sys2Proof.Claims

theorem firstFailure_vectorChecks (ka kb : BufReg) (s : State) :
    firstFailure (vectorChecks ka kb s) = vectorCause ka kb s := by
  simp [vectorChecks, vectorCause, Descriptor.illFormed, Descriptor.outOfRange, Config.memSize, State.count]

/-- The checks of every command are its row of R232. -/
theorem firstFailure_commandChecks (i : Instr) (s : State) : firstFailure (commandChecks i s) = cause i s := by
  cases i with
  | bsldw bd => rfl
  | bsldb bd k => simp [commandChecks, cause, bsldbChecks, Descriptor.illFormed, Config.memSize]
  | bsrdw bs idx => simp [commandChecks, cause, bsrdwChecks]
  | bsstb bs k =>
    simp [commandChecks, cause, bsstbChecks, Descriptor.illFormed, Descriptor.outOfRange, Config.memSize]
  | vcopy ka kb => exact firstFailure_vectorChecks ka kb s
  | veq ka kb => exact firstFailure_vectorChecks ka kb s
  | vxor ka kb => exact firstFailure_vectorChecks ka kb s
  | chacha bd bs ndr ff => simp [commandChecks, cause, chachaChecks]
  | ctrinc => simp [commandChecks, cause, ctrincChecks, ← BitVec.toNat_inj]
  | hldw => rfl
  | hrdw idx => simp [commandChecks, cause, hrdwChecks]
  | b2scomp bm nr => simp [commandChecks, cause, b2scompChecks]

theorem exec_of_cause {i : Instr} {s : State} {e : CmdError} (h : cause i s = some e) : exec i s = .next (failed e s) := by
  rw [exec_of_fail ((firstFailure_commandChecks i s).trans h), raise_eq_failed]

theorem exec_of_no_cause {i : Instr} {s : State} (h : cause i s = none) : exec i s = .next (commandEffect i s).complete :=
  exec_of_pass ((firstFailure_commandChecks i s).trans h)

end Sys2Proof.Machine
end

section
/-! Words and blocks as bytes: little-endian construction and the byte image, and that each undoes the other (R8, R63, R124). -/

namespace Sys2Proof.Machine

open Sys2Proof.Claims

/-! ## One word -/

theorem le32_toNat (b0 b1 b2 b3 : Byte) :
    (le32 b0 b1 b2 b3).toNat = b0.toNat + 2 ^ 8 * b1.toNat + 2 ^ 16 * b2.toNat + 2 ^ 24 * b3.toNat := by
  simp only [le32, toNat_append_eq_add]
  omega

theorem byteOf_toNat (w : Word) (j : Nat) : (byteOf w j).toNat = w.toNat / 2 ^ (8 * j) % 2 ^ 8 := by
  simp [byteOf, Nat.shiftRight_eq_div_pow]

theorem le32_byteOf (w : Word) : le32 (byteOf w 0) (byteOf w 1) (byteOf w 2) (byteOf w 3) = w := by
  apply BitVec.eq_of_toNat_eq
  simp only [le32_toNat, byteOf_toNat]
  omega

theorem byteOf_readWord (m : Memory) (a : Nat) {j : Nat} (hj : j < 4) : byteOf (m.readWord a) j = m.readByte (a + j) := by
  apply BitVec.eq_of_toNat_eq
  rw [byteOf_toNat, Memory.readWord, le32_toNat]
  interval_cases j <;> simp <;> omega

theorem wordImage_getElem? (w : Word) {j : Nat} (hj : j < 4) : (wordImage w)[j]? = some (byteOf w j) := by
  interval_cases j <;> rfl

/-! ## The image of a block (R124) -/

/-- Every word takes four places in the image of a list of words. -/
theorem flatMap_wordImage_getElem? {ws : List Word} {i j : Nat} (hi : i < ws.length) (hj : j < 4) :
    (ws.flatMap wordImage)[4 * i + j]? = some (byteOf ws[i] j) := by
  induction ws generalizing i with
  | nil => exact absurd hi (Nat.not_lt_zero i)
  | cons w ws ih =>
    rw [List.flatMap_cons]
    cases i with
    | zero => rw [Nat.mul_zero, Nat.zero_add, List.getElem?_append_left hj, wordImage_getElem? w hj, List.getElem_cons_zero]
    | succ i =>
      have hplace : 4 * (i + 1) + j = (wordImage w).length + (4 * i + j) := by
        rw [wordImage_length]
        omega
      rw [hplace, List.getElem?_append_right (Nat.le_add_right ..), Nat.add_sub_cancel_left,
        ih (Nat.lt_of_succ_lt_succ hi), List.getElem_cons_succ]

theorem blockImage_getElem? (w : Block) {i j : Nat} (hi : i < 16) (hj : j < 4) :
    (blockImage w)[4 * i + j]? = some (byteOf w[i] j) :=
  flatMap_wordImage_getElem? (ws := w.toList) (by rwa [Vector.length_toList]) hj

theorem Memory.readBlock_getElem (m : Memory) (a : Nat) {i : Nat} (hi : i < 16) : (m.readBlock a)[i] = m.readWord (a + 4 * i) := by
  simp [Memory.readBlock]

theorem blockImage_readBlock (m : Memory) (a : Nat) : blockImage (m.readBlock a) = m.readBytes a 64 := by
  refine List.ext_getElem? fun n => ?_
  by_cases hn : n < 64
  · have hi : n / 4 < 16 := by omega
    have hj : n % 4 < 4 := by omega
    have himage := blockImage_getElem? (m.readBlock a) hi hj
    rwa [m.readBlock_getElem a hi, byteOf_readWord m _ hj, Nat.add_assoc, Nat.div_add_mod,
      ← m.readBytes_getElem? a hn] at himage
  · simp [Nat.le_of_not_lt hn]

/-! ## An image in `MEM` -/

section
variable {m : Memory} {a : Nat} (w : Block) (hm : m.wf = true) (hend : a + 64 ≤ Config.memSize)
include hm hend

theorem Memory.readByte_writeBytes_blockImage {i j : Nat} (hi : i < 16) (hj : j < 4) :
    (m.writeBytes a (blockImage w)).readByte (a + 4 * i + j) = byteOf w[i] j := by
  obtain ⟨hlen, hbyte⟩ := List.getElem?_eq_some_iff.1 (blockImage_getElem? w hi hj)
  rw [memWriteSetsItsBytesOnly m a _ _ hm (by rwa [blockImage_length]), Nat.add_assoc]
  simpa only [Nat.le_add_right, Nat.add_sub_cancel_left, hlen, and_self, dite_true] using hbyte

theorem Memory.readBlock_writeBytes_blockImage : (m.writeBytes a (blockImage w)).readBlock a = w := by
  ext1 i hi
  have hbyte (j : Nat) (hj : j < 4) := Memory.readByte_writeBytes_blockImage w hm hend hi hj
  have hfirst : (m.writeBytes a (blockImage w)).readByte (a + 4 * i) = byteOf w[i] 0 := hbyte 0 (by decide)
  rw [Memory.readBlock_getElem _ a hi, Memory.readWord, hfirst, hbyte 1 (by decide), hbyte 2 (by decide), hbyte 3 (by decide),
    le32_byteOf]

end

/-- Settles O27. -/
theorem serializeAndConstructAreInverse : Obligations.SerializeAndConstructAreInverse :=
  ⟨fun w => ⟨blockImage_length w, fun _ _ => blockImage_getElem? w⟩, blockImage_readBlock,
    fun _ _ => Memory.readBlock_writeBytes_blockImage⟩

end Sys2Proof.Machine
end

section
/-! The BlockState commands: the error of each failing check in order, and the exact effect (R120 to R123). -/

namespace Sys2Proof.Machine

open Sys2Proof.Claims

/-- Settles O23: the command has no check. -/
theorem bsldwConstructsFromWords : Obligations.BsldwConstructsFromWords := fun bd _ =>
  ⟨decodeEncodeRoundTrip (.bsldw bd), exec_of_no_cause rfl⟩

/-- Settles O25. -/
theorem bsrdwReadsIndexedWord : Obligations.BsrdwReadsIndexedWord := by
  refine fun bs idx s => ⟨decodeEncodeRoundTrip (.bsrdw bs idx), fun hnull => ?_, fun hv hidx => ?_, fun hv hidx => ?_⟩
  · exact exec_of_cause (if_pos hnull)
  · exact exec_of_cause (by rw [cause, if_neg (ne_false_of_eq_true hv), if_pos hidx])
  · have hnone : cause (.bsrdw bs idx) s = none := by
      rw [cause, if_neg (ne_false_of_eq_true hv), if_neg hidx.not_ge]
    rw [exec_of_no_cause hnone, commandEffect, blockWord_of_lt _ hidx]
    rfl

/-- Settles O24: the block constructed is `readBlock` at `BASE`, each of whose words is four bytes, little-endian. -/
theorem bsldbConstructsFromBytes : Obligations.BsldbConstructsFromBytes := by
  unfold Obligations.BsldbConstructsFromBytes illFormed
  refine fun bd k s => ⟨decodeEncodeRoundTrip (.bsldb bd k), fun hnull => ?_, fun hv hill => ?_, fun hv hform hlen => ?_,
    fun hv hform hlen => ⟨s.mem.readBlock (s.buf[k]).base.toNat, ?_, fun i hi => ?_⟩⟩
  · exact exec_of_cause (if_pos hnull)
  · exact exec_of_cause (by rw [cause, if_neg (ne_false_of_eq_true hv), if_pos hill])
  · exact exec_of_cause (by rw [cause, if_neg (ne_false_of_eq_true hv), if_neg hform, if_pos hlen])
  · exact exec_of_no_cause (by rw [cause, if_neg (ne_false_of_eq_true hv), if_neg hform, if_neg (not_not.2 hlen)])
  · rw [Memory.readBlock_getElem _ _ hi, Memory.readWord, le32_toNat]

/-- Settles O26: the range in bounds lies inside `MEM`, where the image is written whole. -/
theorem bsstbSerializesToBytes : Obligations.BsstbSerializesToBytes := by
  unfold Obligations.BsstbSerializesToBytes illFormed
  intro bs k s
  have hpresent (hb : s.bv[bs] = true) (hv : (s.buf[k]).v = true) : ¬ (s.bv[bs] = false ∨ (s.buf[k]).v = false) :=
    not_or.2 ⟨ne_false_of_eq_true hb, ne_false_of_eq_true hv⟩
  refine ⟨decodeEncodeRoundTrip (.bsstb bs k), fun hnull => ?_, fun hb hv hill => ?_, fun hb hv hform hout => ?_,
    fun hb hv hform hrange => ?_⟩
  · exact exec_of_cause (if_pos hnull)
  · exact exec_of_cause (by rw [cause, if_neg (hpresent hb hv), if_pos hill])
  · exact exec_of_cause (by rw [cause, if_neg (hpresent hb hv), if_neg hform, if_pos hout])
  · have hnone : cause (.bsstb bs k) s = none := by
      rw [cause, if_neg (hpresent hb hv), if_neg hform, if_neg hrange.not_gt]
    have hend : (s.buf[k]).start s.offa + 64 ≤ Config.memSize :=
      (Descriptor.start_add_le hrange).trans (Nat.le_of_not_gt hform)
    refine ⟨_, exec_of_no_cause hnone, fun hs => ⟨fun i j hi hj => ?_, fun x hx => ?_⟩⟩
    · exact (congrArg BitVec.toNat (Memory.readByte_writeBytes_blockImage _ hs hend hi hj)).trans (byteOf_toNat ..)
    · exact Memory.readByte_writeBytes_of_outside hs (by rwa [blockImage_length]) (by rwa [blockImage_length])

end Sys2Proof.Machine
end

section
/-! Moving bytes between two ranges of `MEM`: one move for both byte functions, byte by byte, and in place in the direction of R145
(R144, R145, R148). -/

namespace Sys2Proof.Machine

open Sys2Proof.Claims

theorem Memory.readBytes_getElem (m : Memory) (a n : Nat) {i : Nat} (hi : i < (m.readBytes a n).length) :
    (m.readBytes a n)[i] = m.readByte (a + i) :=
  Option.some.inj ((List.getElem?_eq_getElem hi).symm.trans (m.readBytes_getElem? a (by rwa [m.readBytes_length] at hi)))

/-- A byte write outside a range leaves what a read of the range gives. -/
theorem Memory.readBytes_writeByte_of_outside {m : Memory} {a b n : Nat} (hm : m.wf = true) (v : Byte)
    (h : a < b ∨ b + n ≤ a) : (m.writeByte a v).readBytes b n = m.readBytes b n := by
  refine List.ext_getElem (by simp) fun i hi _ => ?_
  rw [Memory.readBytes_length] at hi
  rw [Memory.readBytes_getElem, Memory.readBytes_getElem, Memory.readByte_writeByte _ _ _ hm, if_neg (by omega)]

/-- Byte `i` of a becomes `f` of the old bytes `i` of a and b, all of them read first: `copyBytes` and `xorBytes` for any `f`. -/
def Memory.moveBytes (f : Byte → Byte → Byte) (m : Memory) (sa sb n : Nat) : Memory :=
  m.writeBytes sa (List.zipWith f (m.readBytes sa n) (m.readBytes sb n))

theorem Memory.xorBytes_eq_moveBytes (m : Memory) (sa sb n : Nat) : m.xorBytes sa sb n = m.moveBytes xorByte sa sb n := rfl

theorem Memory.copyBytes_eq_moveBytes (m : Memory) (sa sb n : Nat) : m.copyBytes sa sb n = m.moveBytes assignByte sa sb n := by
  have hbytes : List.zipWith assignByte (m.readBytes sa n) (m.readBytes sb n) = m.readBytes sb n :=
    List.ext_getElem (by simp) fun i _ _ => by rw [List.getElem_zipWith, assignByte]
  rw [Memory.copyBytes, Memory.moveBytes, hbytes]

theorem overlap_eq_false_iff {n sa sb : Nat} : overlap n sa sb = false ↔ sb + n ≤ sa ∨ sa + n ≤ sb := by
  rw [← Bool.not_eq_true]
  simp only [overlap, Bool.and_eq_true, decide_eq_true_iff]
  omega

section

variable (f : Byte → Byte → Byte) {m : Memory} {sa sb n : Nat} (hm : m.wf = true) (hend : sa + n ≤ Config.memSize)
include hm hend

theorem Memory.moveBytes_wf : (m.moveBytes f sa sb n).wf = true :=
  Memory.writeBytes_wf _ hm (by simpa using hend)

theorem Memory.readByte_moveBytes (x : Nat) :
    (m.moveBytes f sa sb n).readByte x =
      if sa ≤ x ∧ x < sa + n then f (m.readByte x) (m.readByte (sb + (x - sa))) else m.readByte x := by
  have hlen : (List.zipWith f (m.readBytes sa n) (m.readBytes sb n)).length = n := by simp
  rw [Memory.moveBytes, memWriteSetsItsBytesOnly _ _ _ _ hm (by rwa [hlen])]
  by_cases hx : sa ≤ x ∧ x < sa + n
  · rw [dif_pos (by omega), if_pos hx, List.getElem_zipWith, Memory.readBytes_getElem, Memory.readBytes_getElem,
      Nat.add_sub_of_le hx.1]
  · rw [dif_neg (by omega), if_neg hx]

/-- Ascending, each byte of b is read before it is overwritten unless it stands below a and reaches into it. -/
theorem Memory.moveAscending_eq_moveBytes (h : sa ≤ sb ∨ sb + n ≤ sa) : m.moveAscending f sa sb n = m.moveBytes f sa sb n := by
  induction n generalizing m sa sb with
  | zero => rfl
  | succ n ih =>
    rw [Memory.moveAscending, ih (Memory.writeByte_wf _ hm (by omega)) (by omega) (by omega), Memory.moveBytes,
      Memory.readBytes_writeByte_of_outside hm _ (by omega), Memory.readBytes_writeByte_of_outside hm _ (by omega)]
    rfl

/-- Descending, each byte of b is read before it is overwritten unless it stands above a and a reaches into it. -/
theorem Memory.moveDescending_eq_moveBytes (h : sb ≤ sa ∨ sa + n ≤ sb) : m.moveDescending f sa sb n = m.moveBytes f sa sb n := by
  induction n generalizing m with
  | zero => rfl
  | succ n ih =>
    have hlast : sa + n < Config.memSize := hend
    have hm' := Memory.writeByte_wf (f (m.readByte (sa + n)) (m.readByte (sb + n))) hm hlast
    rw [Memory.moveDescending, ih hm' hlast.le (by omega)]
    refine canonicalMemoriesWithEqualBytesAreEqual _ _ (Memory.moveBytes_wf f hm' hlast.le) (Memory.moveBytes_wf f hm hend)
      fun x => ?_
    simp only [Memory.readByte_moveBytes f hm' hlast.le, Memory.readByte_moveBytes f hm hend, Memory.readByte_writeByte _ _ _ hm]
    obtain rfl | hx := eq_or_ne x (sa + n)
    · simp
    · by_cases hin : sa ≤ x ∧ x < sa + n
      · rw [if_pos hin, if_neg hx, if_neg (by omega), if_pos (by omega)]
      · rw [if_neg hin, if_neg hx, if_neg (by omega)]

/-- The direction of R145 never overwrites a byte of b that is still to be read. -/
theorem Memory.moveInPlace_eq_moveBytes (ascending : Bool) : m.moveInPlace f ascending sa sb n = m.moveBytes f sa sb n := by
  rw [Memory.moveInPlace, precedes]
  cases hov : overlap n sa sb with
  | true =>
    by_cases hlt : sa < sb
    · rw [if_pos rfl, if_pos (decide_eq_true hlt), Memory.moveAscending_eq_moveBytes f hm hend (.inl hlt.le)]
    · rw [if_pos rfl, if_neg (by simpa using hlt),
        Memory.moveDescending_eq_moveBytes f hm hend (.inl (Nat.le_of_not_lt hlt))]
  | false =>
    have hdisjoint := overlap_eq_false_iff.1 hov
    cases ascending with
    | true => exact Memory.moveAscending_eq_moveBytes f hm hend (by omega)
    | false => exact Memory.moveDescending_eq_moveBytes f hm hend (by omega)

/-- On disjoint ranges b is untouched, and XOR with the same byte twice is the first byte. -/
theorem Memory.moveBytes_xorByte_twice (hdisjoint : sa + n ≤ sb ∨ sb + n ≤ sa) :
    (m.moveBytes xorByte sa sb n).moveBytes xorByte sa sb n = m := by
  have hm' := Memory.moveBytes_wf xorByte (sb := sb) hm hend
  refine canonicalMemoriesWithEqualBytesAreEqual _ _ (Memory.moveBytes_wf xorByte hm' hend) hm fun x => ?_
  simp only [Memory.readByte_moveBytes xorByte hm' hend, Memory.readByte_moveBytes xorByte hm hend]
  by_cases hx : sa ≤ x ∧ x < sa + n
  · rw [if_pos hx, if_pos hx, if_neg (by omega), xorByte, xorByte, BitVec.xor_assoc, BitVec.xor_self, BitVec.xor_zero]
  · rw [if_neg hx, if_neg hx]

end

/-- Settles O33: both byte functions are a move, which any processing order gives that overwrites no byte still to be read. -/
theorem inPlaceDirectionMatchesTemporary : Obligations.InPlaceDirectionMatchesTemporary := by
  intro m sa sb n ascending hm hend _
  rw [Memory.copyBytes_eq_moveBytes, Memory.xorBytes_eq_moveBytes]
  exact ⟨Memory.moveInPlace_eq_moveBytes assignByte hm hend ascending,
    fun _ => Memory.moveInPlace_eq_moveBytes xorByte hm hend ascending⟩

end Sys2Proof.Machine
end

section
/-! The VectorMemory commands: the error of each failing check in order, and the exact effect (R141 to R148). -/

namespace Sys2Proof.Machine

open Sys2Proof.Claims

theorem not_null_of_valid {v w : Bool} (hv : v = true) (hw : w = true) : ¬ (v = false ∨ w = false) :=
  not_or.2 ⟨ne_false_of_eq_true hv, ne_false_of_eq_true hw⟩

/-- Settles O28: the three commands have one row of R232. -/
theorem vectorCommandsValidateFirst : Obligations.VectorCommandsValidateFirst := by
  unfold Obligations.VectorCommandsValidateFirst illFormed
  intro ka kb s i hi
  have hcause : cause i s = vectorCause ka kb s := by obtain rfl | rfl | rfl := hi <;> rfl
  refine ⟨fun hnull => ?_, fun ha hb hill => ?_, fun ha hb hforma hformb hout => ?_⟩ <;>
    refine exec_of_cause (hcause.trans ?_)
  · exact if_pos hnull
  · rw [vectorCause, if_neg (not_null_of_valid ha hb), if_pos hill]
  · rw [vectorCause, if_neg (not_null_of_valid ha hb), if_neg (not_or.2 ⟨hforma, hformb⟩), if_pos hout]

theorem coincide_start_iff {ka kb : BufReg} {s : State} :
    coincide (s.startA ka) (s.startB kb) = true ↔ startA ka s = startB kb s :=
  beq_iff_eq

section

variable {ka kb : BufReg} {s : State} (h : vectorReady ka kb s)
include h

theorem vectorCause_of_ready : vectorCause ka kb s = none := by
  unfold vectorReady illFormed at h
  obtain ⟨ha, hb, hforma, hformb, hrangea, hrangeb⟩ := h
  rw [vectorCause, if_neg (not_null_of_valid ha hb), if_neg (not_or.2 ⟨hforma, hformb⟩),
    if_neg (not_or.2 ⟨hrangea.not_gt, hrangeb.not_gt⟩)]

theorem startA_add_cnt_le : startA ka s + s.cnt.toNat ≤ Config.memSize :=
  State.startA_add_count_le ((firstFailure_vectorChecks ka kb s).trans (vectorCause_of_ready h))

theorem exec_vcopy_of_ready : exec (.vcopy ka kb) s =
    .next (s.writeMem (s.mem.moveBytes assignByte (startA ka s) (startB kb s) s.cnt.toNat)).complete := by
  rw [exec_of_no_cause (i := .vcopy ka kb) (vectorCause_of_ready h), commandEffect, Memory.copyBytes_eq_moveBytes]
  rfl

theorem exec_veq_of_ready : exec (.veq ka kb) s =
    .next (s.writeEq (equalsResult s.mem (s.buf[ka]).len (s.buf[kb]).len (startA ka s) (startB kb s) s.cnt.toNat)).complete :=
  exec_of_no_cause (vectorCause_of_ready h)

theorem exec_vxor_of_coincide (hco : startA ka s = startB kb s) : exec (.vxor ka kb) s = .next s.complete := by
  rw [exec_of_no_cause (i := .vxor ka kb) (vectorCause_of_ready h), commandEffect, if_pos (coincide_start_iff.2 hco)]

theorem exec_vxor_of_ne (hne : startA ka s ≠ startB kb s) : exec (.vxor ka kb) s =
    .next (s.writeMem (s.mem.moveBytes xorByte (startA ka s) (startB kb s) s.cnt.toNat)).complete := by
  rw [exec_of_no_cause (i := .vxor ka kb) (vectorCause_of_ready h), commandEffect, if_neg (mt coincide_start_iff.1 hne)]
  rfl

end

/-- Settles O29: `VCOPY` is the move that takes each byte of b. -/
theorem vcopyMovesBytes : Obligations.VcopyMovesBytes := fun ka kb _ =>
  ⟨decodeEncodeRoundTrip (.vcopy ka kb), fun _ he => exec_of_cause he,
    fun h => ⟨_, exec_vcopy_of_ready h, fun hs => Memory.readByte_moveBytes assignByte hs (startA_add_cnt_le h)⟩⟩

/-- Settles O31: off coinciding ranges `VXOR` is the move that takes the XOR of both bytes. -/
theorem vxorCombinesBytes : Obligations.VxorCombinesBytes := fun ka kb _ =>
  ⟨decodeEncodeRoundTrip (.vxor ka kb), fun _ he => exec_of_cause he, exec_vxor_of_coincide,
    fun h hne => ⟨_, exec_vxor_of_ne h hne, fun hs => Memory.readByte_moveBytes xorByte hs (startA_add_cnt_le h)⟩⟩

/-- Settles O30: off empty buffers `EQ` is the comparison of the bytes, which a range passes with itself. -/
theorem veqComparesBytes : Obligations.VeqComparesBytes := by
  refine fun ka kb s => ⟨decodeEncodeRoundTrip (.veq ka kb), fun _ he => exec_of_cause he, fun h =>
    ⟨_, exec_veq_of_ready h, fun hempty => ?_, fun ha hb hco => ?_, fun ha hb => ?_⟩⟩
  · rw [State.writeEq_eq, equalsResult_eq_true_iff]
    exact or_iff_left fun ⟨ha, hb, _⟩ => hempty.elim ha hb
  · rw [State.writeEq_eq, equalsResult_nonempty ha hb, hco, beq_self_eq_true]
  · rw [State.writeEq_eq, equalsResult_nonempty ha hb, beq_iff_eq, Memory.readBytes_eq_iff]

/-- With nothing to compare only the emptiness of the buffers counts (R143, R147). -/
theorem equalsResult_zero_eq_true_iff (m : Memory) (lenA lenB : Word) (sa sb : Nat) :
    equalsResult m lenA lenB sa sb 0 = true ↔ (lenA.toNat = 0 ↔ lenB.toNat = 0) := by
  rw [equalsResult_eq_true_iff, iff_iff_and_or_not_and_not (a := lenA.toNat = 0)]
  simp

/-- Settles O32: a move of no byte is no write, and no byte differs from another. -/
theorem zeroCountVectorCommands : Obligations.ZeroCountVectorCommands := by
  intro ka kb s h hcnt
  have hmove (f : Byte → Byte → Byte) : s.mem.moveBytes f (startA ka s) (startB kb s) s.cnt.toNat = s.mem := by
    rw [hcnt]
    rfl
  refine ⟨?_, ?_, _, exec_veq_of_ready h, ?_⟩
  · rw [exec_vcopy_of_ready h, hmove]
    rfl
  · obtain hco | hne := eq_or_ne (startA ka s) (startB kb s)
    · exact exec_vxor_of_coincide h hco
    · rw [exec_vxor_of_ne h hne, hmove]
      rfl
  · rw [State.writeEq_eq, hcnt, equalsResult_zero_eq_true_iff]

/-- Settles O34: `VXOR` leaves its operands, so the second one moves the same ranges. -/
theorem disjointXorTwiceRestores : Obligations.DisjointXorTwiceRestores := by
  intro ka kb s hs h hdisjoint
  obtain hco | hne := eq_or_ne (startA ka s) (startB kb s)
  · exact ⟨_, exec_vxor_of_coincide h hco, exec_vxor_of_coincide (s := s.complete) h hco⟩
  · have hagain (m : Memory) : exec (.vxor ka kb) (s.writeMem m).complete =
        .next (s.writeMem (m.moveBytes xorByte (startA ka s) (startB kb s) s.cnt.toNat)).complete :=
      exec_vxor_of_ne (s := (s.writeMem m).complete) h hne
    refine ⟨_, exec_vxor_of_ne h hne, ?_⟩
    rw [hagain, Memory.moveBytes_xorByte_twice hs (startA_add_cnt_le h) hdisjoint]
    rfl

end Sys2Proof.Machine
end

section
/-! Transforms of a sixteen-word register that read and write the words of a list alone, the form in which steps, quarter-rounds
and passes compose and commute (R171, R173). -/

namespace Sys2Proof.Machine

/-- The two registers agree on the words at `S`. -/
def AgreeOn (S : List (Fin 16)) (v w : Block) : Prop := ∀ x ∈ S, v[x] = w[x]

/-- `f` writes no word outside `S`, and what it writes to those at `S` is a function of those at `S`. -/
structure TouchesOnly (S : List (Fin 16)) (f : Block → Block) : Prop where
  keeps : ∀ (v : Block), ∀ x ∉ S, (f v)[x] = v[x]
  agree : ∀ {v w : Block}, AgreeOn S v w → AgreeOn S (f v) (f w)

theorem Block.ext_getElem {v w : Block} (h : ∀ x : Fin 16, v[x] = w[x]) : v = w :=
  Vector.ext fun i hi => h ⟨i, hi⟩

section
variable {S T : List (Fin 16)} {f g : Block → Block} (hf : TouchesOnly S f)
include hf

theorem TouchesOnly.comp (hg : TouchesOnly S g) : TouchesOnly S (g ∘ f) where
  keeps v x hx := (hg.keeps (f v) x hx).trans (hf.keeps v x hx)
  agree h := hg.agree (hf.agree h)

/-- After a transform of other words, `f` makes of the words at `S` what it makes of them without it. -/
theorem TouchesOnly.agreeOn_of_disjoint (hg : TouchesOnly T g) (hdisjoint : S.Disjoint T) (v : Block) :
    AgreeOn S (f (g v)) (f v) :=
  hf.agree fun x hx => hg.keeps v x (hdisjoint hx)

theorem TouchesOnly.comm_of_disjoint (hg : TouchesOnly T g) (hdisjoint : S.Disjoint T) (v : Block) : g (f v) = f (g v) := by
  refine Block.ext_getElem fun x => ?_
  by_cases hS : x ∈ S
  · rw [hg.keeps _ x (hdisjoint hS), hf.agreeOn_of_disjoint hg hdisjoint v x hS]
  · rw [hf.keeps _ x hS]
    by_cases hT : x ∈ T
    · exact hg.agreeOn_of_disjoint hf hdisjoint.symm v x hT
    · rw [hg.keeps _ x hT, hg.keeps _ x hT, hf.keeps _ x hS]

end

/-- Sixteen words have finitely many values, so that a transform is a bijection as soon as it loses nothing. -/
theorem Block.bijective_of_injective {f : Block → Block} (h : Function.Injective f) : Function.Bijective f := by
  have : Finite Block :=
    Finite.of_injective (fun (v : Block) (x : Fin 16) => v[x]) fun _ _ he => Block.ext_getElem (congrFun he)
  exact Finite.injective_iff_bijective.1 h

end Sys2Proof.Machine
end

section
/-! The steps, quarter-rounds and passes of ChaCha: what they make of each word, that those on disjoint words commute, and that
none loses anything (R171, R173, R177). -/

namespace Sys2Proof.Machine

/-! ## One step -/

/-- Bit `i` of `x` is bit `i + n`, wrapped at 32, of the rotated word. -/
theorem rotl32_injective {n : Nat} (hn : n < 32) : Function.Injective (rotl32 · n) := by
  intro x y h
  have hbit (j : Nat) (hj : j < 32) : (rotl32 x n)[j] = (rotl32 y n)[j] := congrArg (fun z : Word => z[j]) h
  simp only [rotl32_eq_rotateLeft _ hn, BitVec.getElem_rotateLeft, Nat.mod_eq_of_lt hn] at hbit
  ext i hi
  by_cases hwrap : i + n < 32
  · simpa using hbit (i + n) hwrap
  · have hlt : i + n - 32 < n := by omega
    have hplace : 32 - n + (i + n - 32) = i := by omega
    simpa [hlt, hplace] using hbit (i + n - 32) (by omega)

theorem chachaStep_touchesOnly {S : List (Fin 16)} {a b d : Fin 16} (n : Nat) (hne : a ≠ d) (hS : [a, b, d] ⊆ S) :
    TouchesOnly S (chachaStep · a b d n) where
  keeps v x hx := by
    have hxd : x ≠ d := fun h => hx (h ▸ hS (by simp))
    have hxa : x ≠ a := fun h => hx (h ▸ hS (by simp))
    rw [chachaStep_getElem v a b d n hne, if_neg hxd, if_neg hxa]
  agree h x hx := by
    rw [chachaStep_getElem _ a b d n hne, chachaStep_getElem _ a b d n hne, h a (hS (by simp)), h b (hS (by simp)),
      h d (hS (by simp)), h x hx]

/-- The sum gives back word `a` once word `b` is known, and then the rotated XOR gives back word `d`. -/
theorem chachaStep_injective {a b d : Fin 16} {n : Nat} (hab : a ≠ b) (had : a ≠ d) (hbd : b ≠ d) (hn : n < 32) :
    Function.Injective (chachaStep · a b d n) := by
  intro v w h
  have hword (x : Fin 16) : (chachaStep v a b d n)[x] = (chachaStep w a b d n)[x] := congrArg (fun u : Block => u[x]) h
  simp only [chachaStep_getElem _ a b d n had] at hword
  have hother (x : Fin 16) (hxd : x ≠ d) (hxa : x ≠ a) : v[x] = w[x] := by simpa [hxd, hxa] using hword x
  have hsum : v[a] + v[b] = w[a] + w[b] := by simpa [had] using hword a
  have ha : v[a] = w[a] := add_right_cancel (hsum.trans (by rw [hother b hbd hab.symm]))
  have hd : v[d] = w[d] := by
    have hrot := hword d
    rw [if_pos rfl, if_pos rfl, hsum] at hrot
    exact (BitVec.xor_left_inj _).1 (rotl32_injective hn hrot)
  refine Block.ext_getElem fun x => ?_
  by_cases hxd : x = d
  · rw [hxd, hd]
  · by_cases hxa : x = a
    · rw [hxa, ha]
    · exact hother x hxd hxa

/-! ## The quarter-round (R171) -/

/-- The words a quarter-round is on. -/
abbrev Quarter := Fin 16 × Fin 16 × Fin 16 × Fin 16

def Quarter.words (q : Quarter) : List (Fin 16) := [q.1, q.2.1, q.2.2.1, q.2.2.2]

def quarterRoundAt (v : Block) (q : Quarter) : Block := quarterRound v q.1 q.2.1 q.2.2.1 q.2.2.2

theorem nodup_four_iff {a b c d : Fin 16} :
    [a, b, c, d].Nodup ↔ a ≠ b ∧ a ≠ c ∧ a ≠ d ∧ b ≠ c ∧ b ≠ d ∧ c ≠ d := by
  simp [and_assoc]

theorem quarterRoundAt_touchesOnly {q : Quarter} (h : q.words.Nodup) : TouchesOnly q.words (quarterRoundAt · q) := by
  obtain ⟨-, -, had, hbc, -, -⟩ := nodup_four_iff.1 h
  have hstepA (n : Nat) : TouchesOnly q.words (chachaStep · q.1 q.2.1 q.2.2.2 n) :=
    chachaStep_touchesOnly n had (by simp [Quarter.words])
  have hstepC (n : Nat) : TouchesOnly q.words (chachaStep · q.2.2.1 q.2.2.2 q.2.1 n) :=
    chachaStep_touchesOnly n hbc.symm (by simp [Quarter.words])
  exact (((hstepA 16).comp (hstepC 12)).comp (hstepA 8)).comp (hstepC 7)

theorem quarterRoundAt_injective {q : Quarter} (h : q.words.Nodup) : Function.Injective (quarterRoundAt · q) := by
  obtain ⟨hab, -, had, hbc, hbd, hcd⟩ := nodup_four_iff.1 h
  have hstepA {n : Nat} (hn : n < 32) : Function.Injective (chachaStep · q.1 q.2.1 q.2.2.2 n) :=
    chachaStep_injective hab had hbd hn
  have hstepC {n : Nat} (hn : n < 32) : Function.Injective (chachaStep · q.2.2.1 q.2.2.2 q.2.1 n) :=
    chachaStep_injective hcd hbc.symm hbd.symm hn
  exact (hstepC (by decide)).comp ((hstepA (by decide)).comp ((hstepC (by decide)).comp (hstepA (n := 16) (by decide))))

/-- A step seen from the four words of its quarter-round, of which it leaves two. -/
theorem chachaStep_words {v : Block} {a b c d : Fin 16} {va vb vc vd : Word} {n : Nat} (hn : n < 32)
    (h : [a, b, c, d].Nodup) (ha : v[a] = va) (hb : v[b] = vb) (hc : v[c] = vc) (hd : v[d] = vd) :
    (chachaStep v a b d n)[a] = va + vb ∧ (chachaStep v a b d n)[b] = vb ∧ (chachaStep v a b d n)[c] = vc ∧
      (chachaStep v a b d n)[d] = (vd ^^^ (va + vb)).rotateLeft n := by
  obtain ⟨hab, hac, had, -, hbd, hcd⟩ := nodup_four_iff.1 h
  subst ha hb hc hd
  simp only [chachaStep_getElem v a b d n had, if_neg had, if_neg hab.symm, if_neg hbd, if_neg hac.symm, if_neg hcd, if_true,
    rotl32_eq_rotateLeft _ hn, and_self]

/-- Settles O36: the four words are followed through the four steps. -/
theorem quarterRoundOperations : Obligations.QuarterRoundOperations := by
  intro v a b c d hab hac had hbc hbd hcd
  have habcd : [a, b, c, d].Nodup := nodup_four_iff.2 ⟨hab, hac, had, hbc, hbd, hcd⟩
  have hcdab : [c, d, a, b].Nodup := nodup_four_iff.2 ⟨hcd, hac.symm, hbc.symm, had.symm, hbd.symm, hab⟩
  obtain ⟨ha₁, hb₁, hc₁, hd₁⟩ := chachaStep_words (v := v) (n := 16) (by decide) habcd rfl rfl rfl rfl
  obtain ⟨hc₂, hd₂, ha₂, hb₂⟩ := chachaStep_words (n := 12) (by decide) hcdab hc₁ hd₁ ha₁ hb₁
  obtain ⟨ha₃, hb₃, hc₃, hd₃⟩ := chachaStep_words (n := 8) (by decide) habcd ha₂ hb₂ hc₂ hd₂
  obtain ⟨hc₄, hd₄, ha₄, hb₄⟩ := chachaStep_words (n := 7) (by decide) hcdab hc₃ hd₃ ha₃ hb₃
  refine ⟨ha₄, hb₄, hc₄, hd₄, fun x hxa hxb hxc hxd => ?_⟩
  exact (quarterRoundAt_touchesOnly (q := (a, b, c, d)) habcd).keeps v x (by simp [Quarter.words, hxa, hxb, hxc, hxd])

theorem quarterRoundAt_comm {p q : Quarter} (hp : p.words.Nodup) (hq : q.words.Nodup) (hdisjoint : p.words.Disjoint q.words)
    (v : Block) : quarterRoundAt (quarterRoundAt v p) q = quarterRoundAt (quarterRoundAt v q) p :=
  (quarterRoundAt_touchesOnly hp).comm_of_disjoint (quarterRoundAt_touchesOnly hq) hdisjoint v

/-- Settles O37: each of the two touches its own four words only. -/
theorem disjointQuarterRoundsCommute : Obligations.DisjointQuarterRoundsCommute := by
  intro v a b c d a' b' c' d' h
  have hwords : (Quarter.words (a, b, c, d) ++ Quarter.words (a', b', c', d')).Nodup := h
  obtain ⟨hp, hq, hdisjoint⟩ := List.nodup_append'.1 hwords
  exact quarterRoundAt_comm hp hq hdisjoint v

/-! ## Passes and double-rounds (R173) -/

/-- The quarter-rounds of the column pass. -/
def columnQuarters : List Quarter := [(0, 4, 8, 12), (1, 5, 9, 13), (2, 6, 10, 14), (3, 7, 11, 15)]

/-- The quarter-rounds of the diagonal pass. -/
def diagonalQuarters : List Quarter := [(0, 5, 10, 15), (1, 6, 11, 12), (2, 7, 8, 13), (3, 4, 9, 14)]

theorem columnPass_eq_foldl (v : Block) : columnPass v = columnQuarters.foldl quarterRoundAt v := rfl

theorem diagonalPass_eq_foldl (v : Block) : diagonalPass v = diagonalQuarters.foldl quarterRoundAt v := rfl

/-- The quarter-rounds of `qs` are on distinct words. -/
def DistinctWords (qs : List Quarter) : Prop := (qs.flatMap Quarter.words).Nodup

theorem distinctWords_columnQuarters : DistinctWords columnQuarters := by
  unfold DistinctWords
  decide

theorem distinctWords_diagonalQuarters : DistinctWords diagonalQuarters := by
  unfold DistinctWords
  decide

theorem foldl_quarterRoundAt_of_perm {qs rs : List Quarter} (h : DistinctWords qs) (hperm : qs.Perm rs) (v : Block) :
    qs.foldl quarterRoundAt v = rs.foldl quarterRoundAt v := by
  obtain ⟨hnodup, hpairwise⟩ := List.nodup_flatMap.1 h
  have : Std.Symm (Function.onFun List.Disjoint Quarter.words) := ⟨fun _ _ hdisjoint => hdisjoint.symm⟩
  refine hperm.foldl_eq' (fun p hp q hq w => ?_) v
  obtain rfl | hne := eq_or_ne p q
  · rfl
  · exact quarterRoundAt_comm (hnodup p hp) (hnodup q hq) (hpairwise.forall hp hq hne) w

/-- Settles O60: each pass is a fold over its quarter-rounds, in any order. -/
theorem doubleRoundIsColumnsThenDiagonals : Obligations.DoubleRoundIsColumnsThenDiagonals := by
  intro v columns diagonals hcolumns hdiagonals
  calc doubleRound v = diagonalQuarters.foldl quarterRoundAt (columnQuarters.foldl quarterRoundAt v) := by
        rw [doubleRound, diagonalPass_eq_foldl, columnPass_eq_foldl]
    _ = diagonals.foldl quarterRoundAt (columns.foldl quarterRoundAt v) := by
        rw [foldl_quarterRoundAt_of_perm distinctWords_columnQuarters hcolumns.symm,
          foldl_quarterRoundAt_of_perm distinctWords_diagonalQuarters hdiagonals.symm]
    _ = (columns ++ diagonals).foldl quarterRoundAt v := List.foldl_append.symm

theorem foldl_quarterRoundAt_injective {qs : List Quarter} (h : ∀ q ∈ qs, q.words.Nodup) :
    Function.Injective (qs.foldl quarterRoundAt) := by
  induction qs with
  | nil => exact Function.injective_id
  | cons q qs ih =>
    obtain ⟨hq, hqs⟩ := List.forall_mem_cons.1 h
    exact (ih hqs).comp (quarterRoundAt_injective hq)

theorem doubleRound_injective : Function.Injective doubleRound := by
  intro v w h
  rw [doubleRound, doubleRound, diagonalPass_eq_foldl, diagonalPass_eq_foldl, columnPass_eq_foldl, columnPass_eq_foldl] at h
  exact foldl_quarterRoundAt_injective (List.nodup_flatMap.1 distinctWords_columnQuarters).1
    (foldl_quarterRoundAt_injective (List.nodup_flatMap.1 distinctWords_diagonalQuarters).1 h)

/-- Settles O39: no double-round loses anything. -/
theorem doubleRoundsAreBijective : Obligations.DoubleRoundsAreBijective := by
  intro n
  refine Block.bijective_of_injective ?_
  induction n with
  | zero => exact Function.injective_id
  | succ n ih => exact doubleRound_injective.comp ih

end Sys2Proof.Machine
end

section
/-! The ChaCha commands: the error of the failing check, the exact effect, and what it depends on (R172 to R178). -/

namespace Sys2Proof.Machine

open Sys2Proof.Claims

/-! ## The initial register and the output (R172, R174) -/

theorem chachaInit_getElem (src : Block) (ctr aux : DWord) {i : Nat} (hi : i < 16) :
    (chachaInit src ctr aux)[i] =
      if 15 = i then hi32 aux else if 14 = i then lo32 aux else if 13 = i then hi32 ctr else if 12 = i then lo32 ctr
      else src[i] := by
  simp only [chachaInit, Vector.getElem_set]

theorem chachaInit_getElem_of_lt (src : Block) (ctr aux : DWord) {i : Nat} (hi : i < 12) :
    (chachaInit src ctr aux)[i] = src[i] := by
  rw [chachaInit_getElem, if_neg (by omega), if_neg (by omega), if_neg (by omega), if_neg (by omega)]

theorem chachaInit_congr {src src' : Block} (h : ∀ (i : Nat) (hi : i < 12), src[i] = src'[i]) (ctr aux : DWord) :
    chachaInit src ctr aux = chachaInit src' ctr aux := by
  ext1 i hi
  by_cases h12 : i < 12
  · rw [chachaInit_getElem_of_lt src ctr aux h12, chachaInit_getElem_of_lt src' ctr aux h12, h i h12]
  · rw [chachaInit_getElem, chachaInit_getElem]
    interval_cases i <;> rfl

theorem lo32_toNat (q : DWord) : (lo32 q).toNat = q.toNat % 2 ^ 32 := by
  rw [lo32_eq_ofNat, BitVec.toNat_ofNat]

theorem hi32_toNat (q : DWord) : (hi32 q).toNat = q.toNat / 2 ^ 32 := by
  rw [hi32_eq_ofNat, BitVec.toNat_ofNat]
  omega

/-- Words 12 to 15 of the initial register are the halves of `CTR` and `AUX`, low half first. -/
theorem chachaInit_ctr_aux_toNat (src : Block) (ctr aux : DWord) :
    (chachaInit src ctr aux)[12].toNat = ctr.toNat % 2 ^ 32 ∧ (chachaInit src ctr aux)[13].toNat = ctr.toNat / 2 ^ 32 ∧
    (chachaInit src ctr aux)[14].toNat = aux.toNat % 2 ^ 32 ∧ (chachaInit src ctr aux)[15].toNat = aux.toNat / 2 ^ 32 := by
  simp only [chachaInit_getElem]
  exact ⟨lo32_toNat ctr, hi32_toNat ctr, lo32_toNat aux, hi32_toNat aux⟩

theorem feedForward_getElem (ff : Bool) (v init : Block) {i : Nat} (hi : i < 16) :
    (feedForward ff v init)[i] = if ff then v[i] + init[i] else v[i] := by
  cases ff with
  | false => rfl
  | true => exact Vector.getElem_zipWith hi

theorem byteOf_eq_ofNat (w : Word) (j : Nat) : byteOf w j = BitVec.ofNat 8 (w.toNat / 2 ^ (8 * j)) :=
  BitVec.eq_of_toNat_eq ((byteOf_toNat w j).trans (BitVec.toNat_ofNat ..).symm)

/-! ## The commands (R175, R178) -/

theorem exec_chacha_of_valid {bd bs : BsReg} (ndr : BitVec 8) (ff : Bool) {s : State} (h : s.bv[bs] = true) :
    exec (.chacha bd bs ndr ff) s = .next (s.writeBlock bd (chachaBlock s.b[bs] s.ctr s.aux ndr ff)).complete :=
  exec_of_no_cause (if_neg (ne_false_of_eq_true h))

/-- Settles O35: the registers between the double-rounds are those of `doubleRounds`. -/
theorem chachaAppliesDoubleRounds : Obligations.ChachaAppliesDoubleRounds := by
  intro bd bs ndr ff s
  refine ⟨decodeEncodeRoundTrip (.chacha bd bs ndr ff), fun hnull => exec_of_cause (if_pos hnull), fun hv => ?_⟩
  obtain ⟨h12, h13, h14, h15⟩ := chachaInit_ctr_aux_toNat s.b[bs] s.ctr s.aux
  refine ⟨(doubleRounds · (chachaInit s.b[bs] s.ctr s.aux)), chachaInit s.b[bs] s.ctr s.aux, _,
    exec_chacha_of_valid ndr ff hv, fun i hi => chachaInit_getElem_of_lt _ _ _ hi, h12, h13, h14, h15, rfl, fun _ _ => rfl,
    fun i hi => feedForward_getElem ff _ _ hi, fun i j hi hj => ?_⟩
  rw [blockImage_getElem? _ hi hj, byteOf_eq_ofNat]

theorem State.writeBlock_b_self (s : State) (r : BsReg) (w : Block) : (s.writeBlock r w).b[r] = w :=
  Vector.getElem_set_self r.isLt

/-- Settles O40: the whole output is a function of the initial register. -/
theorem chachaDependsOnNothingElse : Obligations.ChachaDependsOnNothingElse := by
  intro bd bs ndr ff s s' hv hv' hsrc hctr haux
  refine ⟨_, _, exec_chacha_of_valid ndr ff hv, exec_chacha_of_valid ndr ff hv', ?_⟩
  have hblock : chachaBlock s.b[bs] s.ctr s.aux ndr ff = chachaBlock s'.b[bs] s'.ctr s'.aux ndr ff := by
    rw [chachaBlock, chachaBlock, ← hctr, ← haux, chachaInit_congr (src' := s'.b[bs]) hsrc]
  exact (State.writeBlock_b_self ..).trans (hblock.trans (State.writeBlock_b_self ..).symm)

/-- Settles O41: below `2^64 - 1` the sum does not wrap. -/
theorem ctrincCountsOrOverflows : Obligations.CtrincCountsOrOverflows := by
  intro s
  refine ⟨decodeEncodeRoundTrip .ctrinc, fun hlast => exec_of_cause (if_pos hlast), fun hnot => ?_⟩
  have hnowrap : s.ctr.toNat + 1 < 2 ^ 64 := by omega
  exact ⟨s.ctr + 1#64, exec_of_no_cause (if_neg hnot), BitVec.toNat_add_of_lt hnowrap⟩

end Sys2Proof.Machine
end

section
/-! The sub-steps, the mix and the schedule of Blake2s: what they make of each word, and which row a round uses (R193, R195, R198). -/

namespace Sys2Proof.Machine

/-! ## The mix (R193) -/

theorem mixStep_getElem_of_ne {v : Block} {a b d x : Fin 16} (m : Word) (n : Nat) (had : a ≠ d) (hxa : x ≠ a) (hxd : x ≠ d) :
    (mixStep v a b d m n)[x] = v[x] := by
  rw [mixStep_getElem v a b d m n had, if_neg hxd, if_neg hxa]

/-- A sub-step seen from the four words of its mix, of which it leaves two. -/
theorem mixStep_words {v : Block} {a b c d : Fin 16} {va vb vc vd : Word} (m : Word) {n : Nat} (hn : n < 32)
    (h : [a, b, c, d].Nodup) (ha : v[a] = va) (hb : v[b] = vb) (hc : v[c] = vc) (hd : v[d] = vd) :
    (mixStep v a b d m n)[a] = va + vb + m ∧ (mixStep v a b d m n)[b] = vb ∧ (mixStep v a b d m n)[c] = vc ∧
      (mixStep v a b d m n)[d] = (vd ^^^ (va + vb + m)).rotateRight n := by
  obtain ⟨hab, hac, had, -, hbd, hcd⟩ := nodup_four_iff.1 h
  refine ⟨?_, ?_, ?_, ?_⟩
  · rw [mixStep_getElem v a b d m n had, if_neg had, if_pos rfl, ha, hb]
  · rw [mixStep_getElem_of_ne m n had hab.symm hbd, hb]
  · rw [mixStep_getElem_of_ne m n had hac.symm hcd, hc]
  · rw [mixStep_getElem v a b d m n had, if_pos rfl, ha, hb, hd, rotr32_eq_rotateRight _ hn]

theorem mixG_getElem_of_ne {v : Block} {a b c d z : Fin 16} (x y : Word) (had : a ≠ d) (hcb : c ≠ b) (hza : z ≠ a) (hzb : z ≠ b)
    (hzc : z ≠ c) (hzd : z ≠ d) : (mixG v a b c d x y)[z] = v[z] := by
  rw [mixG, mixStep_getElem_of_ne _ _ hcb hzc hzb, mixStep_getElem_of_ne _ _ had hza hzd,
    mixStep_getElem_of_ne _ _ hcb hzc hzb, mixStep_getElem_of_ne _ _ had hza hzd]

/-- Settles O45: the four words are followed through the four sub-steps; the message word zero adds nothing. -/
theorem mixOperations : Obligations.MixOperations := by
  intro v a b c d x y hab hac had hbc hbd hcd
  have habcd : [a, b, c, d].Nodup := nodup_four_iff.2 ⟨hab, hac, had, hbc, hbd, hcd⟩
  have hcdab : [c, d, a, b].Nodup := nodup_four_iff.2 ⟨hcd, hac.symm, hbc.symm, had.symm, hbd.symm, hab⟩
  obtain ⟨ha₁, hb₁, hc₁, hd₁⟩ := mixStep_words (v := v) (n := 16) x (by decide) habcd rfl rfl rfl rfl
  obtain ⟨hc₂, hd₂, ha₂, hb₂⟩ := mixStep_words (n := 12) 0#32 (by decide) hcdab hc₁ hd₁ ha₁ hb₁
  rw [BitVec.add_zero] at hc₂ hb₂
  obtain ⟨ha₃, hb₃, hc₃, hd₃⟩ := mixStep_words (n := 8) y (by decide) habcd ha₂ hb₂ hc₂ hd₂
  obtain ⟨hc₄, hd₄, ha₄, hb₄⟩ := mixStep_words (n := 7) 0#32 (by decide) hcdab hc₃ hd₃ ha₃ hb₃
  rw [BitVec.add_zero] at hc₄ hb₄
  exact ⟨ha₄, hb₄, hc₄, hd₄, fun z hza hzb hzc hzd => mixG_getElem_of_ne x y had hbc.symm hza hzb hzc hzd⟩

/-! ## The schedule (R195, R198) -/

theorem sigmaRow_congr {r q : Nat} (h : r % 10 = q % 10) : sigmaRow r = sigmaRow q := by
  simp only [sigmaRow, h]

/-- Settles O46: every row used is one of the ten written out. -/
theorem scheduleRowsArePermutations : Obligations.ScheduleRowsArePermutations := by
  refine ⟨by decide, fun r => ?_, fun r => sigmaRow_congr (Nat.add_mod_right r 10)⟩
  have hrows : ∀ q < 10, (sigmaRow q).toList.Perm (List.finRange 16) := by decide
  rw [← sigmaRow_congr (Nat.mod_mod r 10)]
  exact hrows (r % 10) (Nat.mod_lt r (by decide))

end Sys2Proof.Machine
end

section
/-! The Blake2s commands: the error of each failing check in order, the exact effect, and what it depends on (R191 to R199). -/

namespace Sys2Proof.Machine

open Sys2Proof.Claims

/-! ## The working register and the new chaining value (R196) -/

theorem blakeInit_getElem_of_lt (h : Chain) (ctr aux : DWord) {i : Nat} (hi : i < 8) : (blakeInit h ctr aux)[i] = h[i] := by
  interval_cases i <;> rfl

/-- The upper half of the working register before round 0: the IV, its last four words XOR the halves of `CTR` and `AUX`, low half
first. -/
def startUpperHalf (ctr aux : DWord) : Chain :=
  #v[0x6A09E667#32, 0xBB67AE85#32, 0x3C6EF372#32, 0xA54FF53A#32,
    0x510E527F#32 ^^^ BitVec.ofNat 32 ctr.toNat, 0x9B05688C#32 ^^^ BitVec.ofNat 32 (ctr.toNat / 2 ^ 32),
    0x1F83D9AB#32 ^^^ BitVec.ofNat 32 aux.toNat, 0x5BE0CD19#32 ^^^ BitVec.ofNat 32 (aux.toNat / 2 ^ 32)]

theorem blakeInit_getElem_add_eight (h : Chain) (ctr aux : DWord) {i : Nat} (hi : i < 8) :
    (blakeInit h ctr aux)[i + 8] = (startUpperHalf ctr aux)[i] := by
  simp only [blakeInit, startUpperHalf, ← lo32_eq_ofNat, ← hi32_eq_ofNat]
  interval_cases i <;> rfl

theorem compress_getElem (h : Chain) (m : Block) (nr : BitVec 8) (ctr aux : DWord) {i : Nat} (hi : i < 8) :
    (compress h m nr ctr aux)[i] =
      h[i] ^^^ (blakeRounds m nr.toNat (blakeInit h ctr aux))[i] ^^^ (blakeRounds m nr.toNat (blakeInit h ctr aux))[i + 8] :=
  Vector.getElem_ofFn hi

/-- With no rounds the lower half of the working register is still the old chaining value, which cancels itself. -/
theorem compress_zero (h : Chain) (m : Block) (ctr aux : DWord) : compress h m 0#8 ctr aux = startUpperHalf ctr aux := by
  ext1 i hi
  have hrounds : blakeRounds m (0#8).toNat (blakeInit h ctr aux) = blakeInit h ctr aux := rfl
  rw [compress_getElem h m 0#8 ctr aux hi, hrounds, blakeInit_getElem_of_lt h ctr aux hi, BitVec.xor_self, BitVec.zero_xor,
    blakeInit_getElem_add_eight h ctr aux hi]

/-! ## The commands (R191, R192, R197) -/

/-- Settles O42: the command has no check. -/
theorem hldwLoadsChainingValue : Obligations.HldwLoadsChainingValue :=
  ⟨decodeEncodeRoundTrip .hldw, fun _ => ⟨_, exec_of_no_cause rfl, fun _ hi => Vector.getElem_ofFn hi⟩⟩

/-- Settles O43. -/
theorem hrdwReadsChainingWord : Obligations.HrdwReadsChainingWord := by
  refine fun idx s => ⟨decodeEncodeRoundTrip (.hrdw idx), fun hnull => ?_, fun hv hidx => ?_, fun hv hidx => ?_⟩
  · exact exec_of_cause (if_pos hnull)
  · exact exec_of_cause (by rw [cause, if_neg (ne_false_of_eq_true hv), if_pos hidx])
  · have hnone : cause (.hrdw idx) s = none := by
      rw [cause, if_neg (ne_false_of_eq_true hv), if_neg hidx.not_ge]
    rw [exec_of_no_cause hnone, commandEffect, chainWord_of_lt _ hidx]
    rfl

theorem State.writeChain_of_valid {s : State} (hh : s.hv = true) (w : Chain) : s.writeChain w = { s with h := w } := by
  rw [State.writeChain, ← hh]

theorem exec_b2scomp_of_valid {bm : BsReg} (nr : BitVec 8) {s : State} (hh : s.hv = true) (hbm : s.bv[bm] = true) :
    exec (.b2scomp bm nr) s = .next { s with h := compress s.h s.b[bm] nr s.ctr s.aux, err := none } := by
  have hnone : cause (.b2scomp bm nr) s = none := if_neg (not_null_of_valid hh hbm)
  rw [exec_of_no_cause hnone, commandEffect, State.writeChain_of_valid hh, State.complete]

/-- Settles O44: the registers between the rounds are those of `blakeRounds`. -/
theorem b2scompCompressesBlock : Obligations.B2scompCompressesBlock := by
  intro bm nr s
  refine ⟨decodeEncodeRoundTrip (.b2scomp bm nr), fun hnull => exec_of_cause (if_pos hnull), fun hh hbm => ?_⟩
  have hupper {i : Nat} (hi : i < 8) := blakeInit_getElem_add_eight s.h s.ctr s.aux hi
  exact ⟨(blakeRounds s.b[bm] · (blakeInit s.h s.ctr s.aux)), _, exec_b2scomp_of_valid nr hh hbm,
    fun i hi => blakeInit_getElem_of_lt _ _ _ hi, hupper (i := 0) (by decide), hupper (i := 1) (by decide),
    hupper (i := 2) (by decide), hupper (i := 3) (by decide), hupper (i := 4) (by decide), hupper (i := 5) (by decide),
    hupper (i := 6) (by decide), hupper (i := 7) (by decide), fun _ _ => rfl, fun i hi => compress_getElem _ _ _ _ _ hi⟩

/-- Settles O47. -/
theorem zeroRoundCompressionForgetsChain : Obligations.ZeroRoundCompressionForgetsChain := by
  intro bm s hh hbm
  rw [exec_b2scomp_of_valid 0#8 hh hbm, compress_zero, startUpperHalf]

/-- Settles O48: the new chaining value is a function of the five alone. -/
theorem b2scompDependsOnNothingElse : Obligations.B2scompDependsOnNothingElse := by
  intro bm nr s s' hh hbm hh' hbm' hchain hblock hctr haux
  refine ⟨_, _, exec_b2scomp_of_valid nr hh hbm, exec_b2scomp_of_valid nr hh' hbm', ?_⟩
  rw [hchain, hblock, hctr, haux]

end Sys2Proof.Machine
end

section
/-! A command's error: the first cause of its row of R232 or none, and what each ending leaves of `ERR` and `STICKY`
(R232 to R236). -/

namespace Sys2Proof.Machine

open Sys2Proof.Claims

theorem exec_err_eq_cause (i : Instr) (s : State) : ∃ t, exec i s = .next t ∧ t.err = cause i s := by
  cases hc : cause i s with
  | none => exact ⟨_, exec_of_no_cause hc, rfl⟩
  | some e => exact ⟨_, exec_of_cause hc, rfl⟩

/-- Settles O11: a word that decodes ends in its command's cause, and every other in `IllegalCommand`. -/
theorem commandErrorIsFirstCause : Obligations.CommandErrorIsFirstCause := by
  intro w s
  unfold runCommand wordCause
  cases decode w with
  | ok i => exact exec_err_eq_cause i s
  | error r => exact ⟨s.raise .illegalCommand, rfl, rfl⟩

/-- Settles O9: the error raised is the one `ERR` shows. -/
theorem failureChangesOnlyErrAndSticky : Obligations.FailureChangesOnlyErrAndSticky := by
  intro w s t e h herr
  obtain ⟨e', rfl⟩ := runCommand_failure h (by simp [herr])
  obtain rfl : e' = e := Option.some.inj herr
  exact raise_eq_failed e' s

/-- Settles O10: no command's effect reaches `STICKY`. -/
theorem successClearsErrKeepsSticky : Obligations.SuccessClearsErrKeepsSticky := fun i s h =>
  ⟨(commandEffect i s).complete, exec_of_no_cause h, rfl, commandEffect_sticky i s⟩

end Sys2Proof.Machine
end

section
/-! Reset during a command: what it leaves of `MEM` and of the host's fields (R261). -/

namespace Sys2Proof.Machine

open Sys2Proof.Claims

/-- The host's fields are those of the abandoned command's start. -/
theorem step_resetDuring {s : State} {w : Word} (hm : nextMove s (.resetDuring w)) :
    step s = .next { State.reset with
      mem := (s.abandonStores w).mem, program := s.program, pc := s.pc + 1, results := s.results,
      freeCount := (s.abandonStores w).freeCount } := by
  rw [step_of_nextMove hm, runMove, hostAction]
  obtain h | ⟨i, a, n, -, -, -, h⟩ := abandonStores_cases s w <;> rw [h] <;> rfl

theorem abandonStores_of_wordCause {s : State} {w : Word} (hw : wordCause w s ≠ none) : s.abandonStores w = s := by
  obtain h | ⟨i, a, n, hi, hc, -, -⟩ := abandonStores_cases s w
  · exact h
  · have hnone : wordCause w s = none := by
      rw [wordCause, hi]
      exact (firstFailure_commandChecks i s).symm.trans hc
    exact absurd hnone hw

/-- The free bytes take the destination's whole range, which lies inside `MEM`, and no other byte. -/
theorem abandonStores_readByte_of_outside {s : State} {w : Word} {x : Nat} (hs : s.Inv)
    (hx : ∀ i a n, decode w = .ok i → stored i s a n → x < a ∨ a + n ≤ x) :
    (s.abandonStores w).mem.readByte x = s.mem.readByte x := by
  obtain h | ⟨i, a, n, hi, hc, hd, h⟩ := abandonStores_cases s w <;> rw [h]
  have hend := destinationRange_end_le hc hd
  have hout := hx i a n hi (stored_of_destinationRange hd)
  rw [State.scramble_mem, Memory.readByte_writeBytes_of_outside hs] <;> rwa [freeBytes_length]

/-- Settles O52: the reset state around whatever `MEM` the abandoned command leaves. -/
theorem resetDuringCommandKeepsOtherBytes : Obligations.ResetDuringCommandKeepsOtherBytes := fun s w hm =>
  ⟨(s.abandonStores w).mem, (s.abandonStores w).freeCount, step_resetDuring hm,
    fun hw => congrArg State.mem (abandonStores_of_wordCause hw), fun hs _ => abandonStores_readByte_of_outside hs⟩

end Sys2Proof.Machine
end

section
/-! The start of a run: the state after reset has the invariant, and placing a command word keeps it. -/

namespace Sys2Proof.Machine

/-- Reset lists no byte of `MEM` (log 3), and the empty list is in canonical form. -/
theorem reset_inv : State.reset.Inv := rfl

/-- Placing a command word changes the host program alone (log 20). -/
@[simp] theorem withFetchWord_mem (s : State) (nbits w : Nat) : (s.withFetchWord nbits w).mem = s.mem := rfl

/-- Settles O18: reset lists no byte of `MEM`, and a placed command word leaves `MEM` as it was. -/
theorem resetMeetsInvariant : Obligations.ResetMeetsInvariant :=
  ⟨reset_inv, fun s nbits w hs => hs.of_mem_eq (withFetchWord_mem s nbits w)⟩

end Sys2Proof.Machine
end
